-- ==== Sys2Proof/Word.lean ====
section
/-! DEFINITION. The words of the MM edge-timing decoder core: the raw telegram bits, the decode word, bytes, and the two
one-bit classes that a decode word and a slot record share. Timestamps, samples and command words are natural numbers (Nat),
because their widths are parameters of the configuration (00_scope.md R7, R9, R17, 30_encoding.md R61). -/

namespace Sys2Proof

/-- The 18 raw bits of a telegram (10_state.md R34). Bit `i` of the vector is `RAW[i]`, the i-th bit received; the vector
read as a number is the low part of the decode word (30_encoding.md R70), never an architectural value of `raw`
(00_scope.md R16). -/
abbrev RawBits := BitVec 18

/-- One byte: an address, or one byte of the image of `raw` (20_memory.md R48). -/
abbrev Byte := BitVec 8

/-- Telegram kind (10_state.md R30): code 0 is locomotive, code 1 is magnet/switch. -/
inductive Kind where
  | locomotive
  | magnet
  deriving DecidableEq, Repr

/-- Protocol variant (10_state.md R31): code 0 is legacy (MM1), code 1 is extended (MM2). -/
inductive Variant where
  | legacy
  | extended
  deriving DecidableEq, Repr

end Sys2Proof
end

