-- ==== Sys2Proof/Config.lean ====
section
/-! DEFINITION. The implementation parameters of 00_scope.md R6 to R14 as one record, the two reference configurations
(92_eei_decisions.md D33), and the free values of the model: constants without a body, of which no proof can know a value. -/

namespace Sys2Proof

/-- A configuration (00_scope.md R6 to R13). It is fixed for the life of the block and no request reads it as data or
writes it (10_state.md R38). -/
structure Config where
  /-- `CAPACITY`, N: the number of datagram slots (R6). -/
  capacity : Nat
  /-- `TS_WIDTH`: the width of a timestamp (R7). -/
  tsWidth : Nat
  /-- `RATIO`: the integer divisor applied to an interval before it is stored (R8). -/
  ratio : Nat
  /-- `SAMPLE_WIDTH`, W: the width of one stored sample (R9). -/
  sampleWidth : Nat
  /-- `GAP_THRESHOLD`: the sync gap, in timestamp units (R10). -/
  gapThreshold : Nat
  /-- `MAGNET_THRESHOLD`: the unit-period classification threshold, in stored units (R11). -/
  magnetThreshold : Nat
  /-- `BAND_LO`: the lower bound of the interference band, inclusive, in stored units (R12). -/
  bandLo : Nat
  /-- `BAND_HI`: the upper bound of the interference band, inclusive, in stored units (R12). -/
  bandHi : Nat
  /-- `ADDR_TABLE`: the 256 entries of the address lookup, entry 0 first (R13). -/
  addrTable : Vector Byte 256
  deriving DecidableEq, Repr

/-- FREE VALUE (log 3): entry `b` of the address table of the reference configurations, for `b` in 1..255. The spec leaves
these entries OPEN (00_scope.md R13, 93_implementation_defined.md I1). -/
opaque Config.freeAddr : Nat → Byte

/-- FREE VALUE (log 8): the WRITE_PTR response where the write pointer does not fit in `TS_WIDTH` bits, as a function of
`TS_WIDTH` and `wp`. 30_encoding.md R62 states no value there. -/
opaque Config.freeZext : (t : Nat) → Nat → BitVec t

/-- Intervals collected per frame (00_scope.md R14). -/
def Config.numIntervals : Nat := 35

/-- Raw bits per telegram (00_scope.md R14). -/
def Config.numBits : Nat := 18

/-- Interval pairs per frame (00_scope.md R14). -/
def Config.numPairs : Nat := 17

/-- The address table of the reference configurations: entry 0 is 80 (00_scope.md R13), the others are open. -/
def Config.refAddrTable : Vector Byte 256 :=
  ⟨⟨80#8 :: (List.range 255).map fun k => Config.freeAddr (k + 1)⟩, by simp⟩

/-- The reference configuration REF (92_eei_decisions.md D33). -/
def Config.ref : Config where
  capacity := 4
  tsWidth := 32
  ratio := 1
  sampleWidth := 16
  gapThreshold := 500
  magnetThreshold := 150
  bandLo := 125
  bandHi := 175
  addrTable := Config.refAddrTable

/-- The second reference configuration REF2 (92_eei_decisions.md D33): thresholds in stored units for a ratio of 2. -/
def Config.ref2 : Config where
  capacity := 4
  tsWidth := 32
  ratio := 2
  sampleWidth := 8
  gapThreshold := 500
  magnetThreshold := 75
  bandLo := 62
  bandHi := 87
  addrTable := Config.refAddrTable

end Sys2Proof
end

