-- ==== Sys2Proof/Syntax.lean ====
section
/-! DEFINITION. The instructions: one constructor per row of opcode_table.json. The nine rows of format CMD are requests
(30_encoding.md R63), with the operand field of the command word. The 26 rows of format DECODE_WORD are telegram classes
(30_encoding.md R78), with the 18 raw bits of the telegram; the kind bit is fixed by the class. -/

namespace Sys2Proof

/-- A request or a telegram class. -/
inductive Instr where
  /-- EDGE with timestamp `ts` (R64). -/
  | edge (ts : Nat)
  /-- DECODE_PASS (42_decoder.md R110). -/
  | decodePass
  /-- POLL (43_consumer.md R135). -/
  | poll
  /-- SLOT_AT with slot index `idx` (R65). -/
  | slotAt (idx : Nat)
  /-- WRITE_PTR (41_queue.md R101). -/
  | writePtr
  /-- RESET (70_reset_and_hazards.md R165). -/
  | reset
  /-- Reserved opcode 0x0, any operand (R67). -/
  | reserved0x0 (operand : Nat)
  /-- Reserved opcode 0x7, any operand (R67). -/
  | reserved0x7 (operand : Nat)
  /-- Reserved opcodes 0x8..0xF: opcode `8 + low`, any operand (R67). -/
  | reserved0x8To0xF (low : BitVec 3) (operand : Nat)
  /-- Magnet telegram with `RAW[8] = 0` (42_decoder.md R116). -/
  | mag (raw : RawBits)
  /-- Magnet telegram with `RAW[8] = 1` (42_decoder.md R117). -/
  | magBad (raw : RawBits)
  /-- Locomotive telegram, speed code 0 (42_decoder.md R119). -/
  | locStop (raw : RawBits)
  /-- Locomotive telegram, speed code 1. -/
  | locDirChg (raw : RawBits)
  /-- Locomotive telegram, speed code 2; the next thirteen constructors are speed codes 3 to 15. -/
  | locSpeed2 (raw : RawBits)
  | locSpeed3 (raw : RawBits)
  | locSpeed4 (raw : RawBits)
  | locSpeed5 (raw : RawBits)
  | locSpeed6 (raw : RawBits)
  | locSpeed7 (raw : RawBits)
  | locSpeed8 (raw : RawBits)
  | locSpeed9 (raw : RawBits)
  | locSpeed10 (raw : RawBits)
  | locSpeed11 (raw : RawBits)
  | locSpeed12 (raw : RawBits)
  | locSpeed13 (raw : RawBits)
  | locSpeed14 (raw : RawBits)
  | locSpeed15 (raw : RawBits)
  /-- Extended locomotive telegram, sMM2 0 or 1 (42_decoder.md R121). -/
  | extNop01 (raw : RawBits)
  /-- Extended locomotive telegram, sMM2 2 or 3 (42_decoder.md R120). -/
  | extFunc2 (raw : RawBits)
  /-- Extended locomotive telegram, sMM2 4 or 5. -/
  | extFwd (raw : RawBits)
  /-- Extended locomotive telegram, sMM2 6 or 7. -/
  | extFunc3 (raw : RawBits)
  /-- Extended locomotive telegram, sMM2 8 or 9 (42_decoder.md R121). -/
  | extNop89 (raw : RawBits)
  /-- Extended locomotive telegram, sMM2 10 or 11. -/
  | extBwd (raw : RawBits)
  /-- Extended locomotive telegram, sMM2 12 or 13. -/
  | extFunc1 (raw : RawBits)
  /-- Extended locomotive telegram, sMM2 14 or 15. -/
  | extFunc4 (raw : RawBits)
  deriving DecidableEq, Repr

/-- The two formats of opcode_table.json. -/
inductive Format where
  /-- A command word of `TS_WIDTH + 4` bits (30_encoding.md R61). -/
  | cmd
  /-- A decode word of 19 bits (30_encoding.md R70). -/
  | decodeWord
  deriving DecidableEq, Repr

end Sys2Proof
end

