-- ==== Sys2Proof/Machine/Operands.lean ====
section
/-! DEFINITION. Operand forms and field extraction: modular timestamp arithmetic, slot indices reduced modulo N, the fields
of a telegram (30_encoding.md R70 to R77), the address lookup, the byte image of `raw`, and the rows of opcode_table.json. -/

namespace Sys2Proof.Machine

/-- `a -_T b`: subtraction modulo `2 ^ t` (00_scope.md R17). -/
def tsSub (t a b : Nat) : Nat :=
  (a + (2 ^ t - b % 2 ^ t)) % 2 ^ t

/-- The slot an index names: every slot index is reduced modulo N first (20_memory.md R49, 30_encoding.md R65). -/
def slotIndex (n idx : Nat) : Nat := idx % n

/-- The write-pointer advance (10_state.md R27). -/
def nextIndex (n i : Nat) : Nat := (i + 1) % n

/-- The cyclic predecessor (41_queue.md R107). -/
def prevIndex (n i : Nat) : Nat := (i + n - 1) % n

/-- The width of the write pointer, `max 1 (ceil (log2 N))` (10_state.md R27). -/
def wpWidth (n : Nat) : Nat := max 1 (Nat.clog 2 n)

/-- `RAW[i]` (00_scope.md R16). -/
def rawBit (raw : RawBits) (i : Nat) : Bool := raw.getLsbD i

/-- `RAW[i]` as a number. -/
def rawNat (raw : RawBits) (i : Nat) : Nat := (rawBit raw i).toNat

/-- `EXT`: one of bit pairs 5 to 8 has differing bits (30_encoding.md R72). -/
def ext (raw : RawBits) : Bool :=
  (rawBit raw 10 != rawBit raw 11) || (rawBit raw 12 != rawBit raw 13) ||
  (rawBit raw 14 != rawBit raw 15) || (rawBit raw 16 != rawBit raw 17)

/-- The speed code `s` (30_encoding.md R73). -/
def speedCode (raw : RawBits) : Nat :=
  rawNat raw 10 * 1 + rawNat raw 12 * 2 + rawNat raw 14 * 4 + rawNat raw 16 * 8

/-- The sub-address (30_encoding.md R74). -/
def subCode (raw : RawBits) : Nat :=
  rawNat raw 10 * 1 + rawNat raw 12 * 2 + rawNat raw 14 * 4

/-- The extended code `sMM2` (30_encoding.md R75). -/
def extCode (raw : RawBits) : Nat :=
  rawNat raw 17 * 1 + rawNat raw 15 * 2 + rawNat raw 13 * 4 + rawNat raw 11 * 8

/-- The address byte `ab`, most significant bit first (30_encoding.md R77). -/
def addrByte (raw : RawBits) : Nat :=
  rawNat raw 0 * 128 + rawNat raw 1 * 64 + rawNat raw 2 * 32 + rawNat raw 3 * 16 +
  rawNat raw 4 * 8 + rawNat raw 5 * 4 + rawNat raw 6 * 2 + rawNat raw 7 * 1

/-- `ADDR_TABLE[ab]` (42_decoder.md R115). -/
def addrLookup (c : Config) (ab : Nat) : Byte := c.addrTable.toList.getD ab 0#8

/-- The write pointer zero-extended to `TS_WIDTH` bits (30_encoding.md R62); a free value where it does not fit (log 8). -/
def zextWritePtr (c : Config) (wp : Nat) : Nat :=
  if wp < 2 ^ c.tsWidth then wp else (Config.freeZext c.tsWidth wp).toNat

/-- One byte of the image of `raw`: bit `7 - j` of byte `b` is `RAW[8b + j]`, and 0 past `RAW[17]` (20_memory.md R48). -/
def imageByte (raw : RawBits) (b : Nat) : Byte :=
  BitVec.ofNat 8 (rawNat raw (8 * b) * 128 + rawNat raw (8 * b + 1) * 64 + rawNat raw (8 * b + 2) * 32 +
    rawNat raw (8 * b + 3) * 16 + rawNat raw (8 * b + 4) * 8 + rawNat raw (8 * b + 5) * 4 +
    rawNat raw (8 * b + 6) * 2 + rawNat raw (8 * b + 7))

/-- The three-byte image of `raw` (20_memory.md R48). No rule of the block reads it. -/
def rawImage (raw : RawBits) : List Byte := [imageByte raw 0, imageByte raw 1, imageByte raw 2]

/-- A list of bits, least significant first, as a number. -/
def packNat : List Bool → Nat
  | [] => 0
  | b :: bs => b.toNat + 2 * packNat bs

/-- The telegram whose bit `RAW[i]` is entry `i` of the list (00_scope.md R16). -/
def packBits (bits : List Bool) : RawBits := BitVec.ofNat 18 (packNat bits)

/-- The kind bit of the decode word, `DW[18]` (30_encoding.md R70). -/
def kindNat : Kind → Nat
  | .locomotive => 0
  | .magnet => 1

/-- The decode word of a telegram as a number (30_encoding.md R70). -/
def decodeWordOf (k : Kind) (raw : RawBits) : Nat := kindNat k * 2 ^ 18 + raw.toNat

/-- The format of an instruction's row in opcode_table.json. -/
def formatOf : Instr → Format
  | .edge _ | .decodePass | .poll | .slotAt _ | .writePtr | .reset => .cmd
  | .reserved0x0 _ | .reserved0x7 _ | .reserved0x8To0xF _ _ => .cmd
  | .mag _ | .magBad _ | .locStop _ | .locDirChg _ => .decodeWord
  | .locSpeed2 _ | .locSpeed3 _ | .locSpeed4 _ | .locSpeed5 _ | .locSpeed6 _ | .locSpeed7 _ | .locSpeed8 _ => .decodeWord
  | .locSpeed9 _ | .locSpeed10 _ | .locSpeed11 _ | .locSpeed12 _ | .locSpeed13 _ | .locSpeed14 _ | .locSpeed15 _ => .decodeWord
  | .extNop01 _ | .extFunc2 _ | .extFwd _ | .extFunc3 _ | .extNop89 _ | .extBwd _ | .extFunc1 _ | .extFunc4 _ => .decodeWord

/-- The `mask` of an instruction's row in opcode_table.json, as the table writes it (REF gives command words of 36 bits). -/
def rowMask : Instr → Nat
  | .edge _ => 0x00000000F
  | .decodePass => 0xFFFFFFFFF
  | .poll => 0xFFFFFFFFF
  | .slotAt _ => 0x00000000F
  | .writePtr => 0xFFFFFFFFF
  | .reset => 0xFFFFFFFFF
  | .reserved0x0 _ => 0x00000000F
  | .reserved0x7 _ => 0x00000000F
  | .reserved0x8To0xF _ _ => 0x000000008
  | .mag _ => 0x40100
  | .magBad _ => 0x40100
  | .locStop _ | .locDirChg _ => 0x55400
  | .locSpeed2 _ | .locSpeed3 _ | .locSpeed4 _ | .locSpeed5 _ | .locSpeed6 _ | .locSpeed7 _ | .locSpeed8 _ => 0x55400
  | .locSpeed9 _ | .locSpeed10 _ | .locSpeed11 _ | .locSpeed12 _ | .locSpeed13 _ | .locSpeed14 _ | .locSpeed15 _ => 0x55400
  | .extNop01 _ | .extFunc2 _ | .extFwd _ | .extFunc3 _ | .extNop89 _ | .extBwd _ | .extFunc1 _ | .extFunc4 _ => 0x4A800

/-- The `match` value of an instruction's row in opcode_table.json. -/
def rowMatch : Instr → Nat
  | .edge _ => 0x000000001
  | .decodePass => 0x000000002
  | .poll => 0x000000003
  | .slotAt _ => 0x000000004
  | .writePtr => 0x000000005
  | .reset => 0x000000006
  | .reserved0x0 _ => 0x000000000
  | .reserved0x7 _ => 0x000000007
  | .reserved0x8To0xF _ _ => 0x000000008
  | .mag _ => 0x40000
  | .magBad _ => 0x40100
  | .locStop _ => 0x00000
  | .locDirChg _ => 0x00400
  | .locSpeed2 _ => 0x01000
  | .locSpeed3 _ => 0x01400
  | .locSpeed4 _ => 0x04000
  | .locSpeed5 _ => 0x04400
  | .locSpeed6 _ => 0x05000
  | .locSpeed7 _ => 0x05400
  | .locSpeed8 _ => 0x10000
  | .locSpeed9 _ => 0x10400
  | .locSpeed10 _ => 0x11000
  | .locSpeed11 _ => 0x11400
  | .locSpeed12 _ => 0x14000
  | .locSpeed13 _ => 0x14400
  | .locSpeed14 _ => 0x15000
  | .locSpeed15 _ => 0x15400
  | .extNop01 _ => 0x00000
  | .extFunc2 _ => 0x08000
  | .extFwd _ => 0x02000
  | .extFunc3 _ => 0x0A000
  | .extNop89 _ => 0x00800
  | .extBwd _ => 0x08800
  | .extFunc1 _ => 0x02800
  | .extFunc4 _ => 0x0A800

end Sys2Proof.Machine
end

