-- ==== Sys2Proof/WellFormed.lean ====
section
/-! DEFINITION. Well-formedness: of a configuration (00_scope.md R15), and of an instruction under a configuration: a
command's operand fits its field (30_encoding.md R61, R64, R65), and a telegram class holds raw bits that its row of
opcode_table.json matches, with the EXT condition where the row carries it (30_encoding.md R72, R78). -/

namespace Sys2Proof

open Sys2Proof.Machine

/-- A well-formed configuration (00_scope.md R15). That the table has 256 entries (R13) is part of its type. -/
def Config.wf (c : Config) : Bool :=
  decide (1 ≤ c.capacity) && decide (1 ≤ c.tsWidth) && decide (1 ≤ c.ratio) && decide (1 ≤ c.sampleWidth) &&
  decide (c.gapThreshold < 2 ^ c.tsWidth) &&
  decide (c.gapThreshold / c.ratio ≤ 2 ^ c.sampleWidth - 1) &&
  decide (c.bandLo ≤ c.bandHi) &&
  decide (addrLookup c 0 = 80#8)

/-- The decode word `{kind, raw}` is one that the row of `i` matches. -/
def rowMatches (i : Instr) (k : Kind) (raw : RawBits) : Bool :=
  decide (decodeWordOf k raw &&& rowMask i = rowMatch i)

/-- A well-formed instruction under a configuration. -/
def Instr.wf (c : Config) (i : Instr) : Bool :=
  match i with
  | .edge ts => decide (ts < 2 ^ c.tsWidth)
  | .slotAt idx => decide (idx < 2 ^ c.tsWidth)
  | .reserved0x0 operand | .reserved0x7 operand | .reserved0x8To0xF _ operand => decide (operand < 2 ^ c.tsWidth)
  | .decodePass | .poll | .writePtr | .reset => true
  | .mag raw | .magBad raw => rowMatches i .magnet raw
  | .locStop raw | .locDirChg raw | .locSpeed2 raw | .locSpeed3 raw | .locSpeed4 raw | .locSpeed5 raw | .locSpeed6 raw
  | .locSpeed7 raw | .locSpeed8 raw | .locSpeed9 raw | .locSpeed10 raw | .locSpeed11 raw | .locSpeed12 raw
  | .locSpeed13 raw | .locSpeed14 raw | .locSpeed15 raw => rowMatches i .locomotive raw
  | .extNop01 raw | .extFunc2 raw | .extFwd raw | .extFunc3 raw | .extNop89 raw | .extBwd raw | .extFunc1 raw
  | .extFunc4 raw => rowMatches i .locomotive raw && ext raw

end Sys2Proof
end

