-- ==== Sys2Proof/Decode.lean ====
section
/-! DEFINITION. Decoding, total on any number, and the encoder. A command word is decoded by its opcode and operand
(30_encoding.md R61 to R68); a decode word is classified by its kind bit and the telegram fields (30_encoding.md R70 to
R78). A word that names no row is rejected by name. -/

namespace Sys2Proof

open Sys2Proof.Machine

/-- Why a word decodes to no instruction. -/
inductive DecodeError where
  /-- A DECODE_PASS, POLL, WRITE_PTR or RESET word with a nonzero operand (30_encoding.md R66). -/
  | nonzeroOperand (op operand : Nat)
  /-- More than `TS_WIDTH + 4` bits: no command word (30_encoding.md R61, log 13). -/
  | wordTooWide (w : Nat)
  /-- More than 19 bits: no decode word (30_encoding.md R70, log 13). -/
  | decodeWordTooWide (w : Nat)
  deriving DecidableEq, Repr

/-- A request whose operand field must be zero (30_encoding.md R66). -/
def zeroOperand (op operand : Nat) (i : Instr) : Except DecodeError Instr :=
  if operand = 0 then .ok i else .error (.nonzeroOperand op operand)

/-- The request with opcode `op` and the given operand (30_encoding.md R63, R67). -/
def decodeOp (op operand : Nat) : Except DecodeError Instr :=
  match op with
  | 0x0 => .ok (.reserved0x0 operand)
  | 0x1 => .ok (.edge operand)
  | 0x2 => zeroOperand op operand .decodePass
  | 0x3 => zeroOperand op operand .poll
  | 0x4 => .ok (.slotAt operand)
  | 0x5 => zeroOperand op operand .writePtr
  | 0x6 => zeroOperand op operand .reset
  | 0x7 => .ok (.reserved0x7 operand)
  | _ => .ok (.reserved0x8To0xF (BitVec.ofNat 3 op) operand)

/-- Decode a command word under timestamp width `t`: `op` is bits 3..0, the operand is the bits above (30_encoding.md R61). -/
def decodeCmd (t : Nat) (w : Nat) : Except DecodeError Instr :=
  if w < 2 ^ (t + 4) then decodeOp (w % 16) (w / 16) else .error (.wordTooWide w)

/-- The base class of a locomotive telegram, by its speed code (30_encoding.md R78). -/
def locClass (s : Nat) (raw : RawBits) : Instr :=
  match s with
  | 0 => .locStop raw
  | 1 => .locDirChg raw
  | 2 => .locSpeed2 raw
  | 3 => .locSpeed3 raw
  | 4 => .locSpeed4 raw
  | 5 => .locSpeed5 raw
  | 6 => .locSpeed6 raw
  | 7 => .locSpeed7 raw
  | 8 => .locSpeed8 raw
  | 9 => .locSpeed9 raw
  | 10 => .locSpeed10 raw
  | 11 => .locSpeed11 raw
  | 12 => .locSpeed12 raw
  | 13 => .locSpeed13 raw
  | 14 => .locSpeed14 raw
  | _ => .locSpeed15 raw

/-- The base class of a telegram (30_encoding.md R78). -/
def baseClass (k : Kind) (raw : RawBits) : Instr :=
  match k with
  | .magnet => if rawBit raw 8 then .magBad raw else .mag raw
  | .locomotive => locClass (speedCode raw) raw

/-- The extended sub-class of a locomotive telegram, by half its extended code (30_encoding.md R76, R78). -/
def extClass (raw : RawBits) : Instr :=
  match extCode raw / 2 with
  | 0 => .extNop01 raw
  | 1 => .extFunc2 raw
  | 2 => .extFwd raw
  | 3 => .extFunc3 raw
  | 4 => .extNop89 raw
  | 5 => .extBwd raw
  | 6 => .extFunc1 raw
  | _ => .extFunc4 raw

/-- Every class name of a telegram: its base class, and its sub-class where it has one (30_encoding.md R78). -/
def classesOf (k : Kind) (raw : RawBits) : List Instr :=
  if k = .locomotive ∧ ext raw = true then [baseClass k raw, extClass raw] else [baseClass k raw]

/-- The name under which a slot step runs a telegram. An extended locomotive word has two names for one slot step; the
decoder answers with the sub-class where the extended code is not 0 and with the base class otherwise (DESIGN CHOICE,
log 5: a choice of name only). -/
def decodeTelegram (k : Kind) (raw : RawBits) : Instr :=
  if k = .locomotive ∧ ext raw = true ∧ extCode raw ≠ 0 then extClass raw else baseClass k raw

/-- The kind bit of a decode word (30_encoding.md R70). -/
def kindOfWord (w : Nat) : Kind := if w.testBit 18 then .magnet else .locomotive

/-- Decode a decode word. -/
def decodeDW (w : Nat) : Except DecodeError Instr :=
  if w < 2 ^ 19 then .ok (decodeTelegram (kindOfWord w) (BitVec.ofNat 18 w)) else .error (.decodeWordTooWide w)

/-- Whether a row of `nbits` bits (in whole bytes) is a row of format DECODE_WORD: its words have 19 bits, so 24. -/
def isTelegramWidth (nbits : Nat) : Bool := decide (16 < nbits) && decide (nbits ≤ 24)

/-- The instruction the decoder reads from a word of opcode_table.json, numbered as the table numbers it; command words are
those of REF. -/
def decodeTableWord (nbits w : Nat) : Option Instr :=
  if isTelegramWidth nbits then (decodeDW w).toOption else (decodeCmd Config.ref.tsWidth w).toOption

/-- The word of a well-formed instruction: a command word (30_encoding.md R61, R63) or a decode word (30_encoding.md R70). -/
def encode (i : Instr) : Nat :=
  match i with
  | .edge ts => ts * 16 + 0x1
  | .decodePass => 0x2
  | .poll => 0x3
  | .slotAt idx => idx * 16 + 0x4
  | .writePtr => 0x5
  | .reset => 0x6
  | .reserved0x0 operand => operand * 16 + 0x0
  | .reserved0x7 operand => operand * 16 + 0x7
  | .reserved0x8To0xF low operand => operand * 16 + 0x8 + low.toNat
  | .mag raw | .magBad raw => decodeWordOf .magnet raw
  | .locStop raw | .locDirChg raw | .locSpeed2 raw | .locSpeed3 raw | .locSpeed4 raw | .locSpeed5 raw | .locSpeed6 raw
  | .locSpeed7 raw | .locSpeed8 raw | .locSpeed9 raw | .locSpeed10 raw | .locSpeed11 raw | .locSpeed12 raw
  | .locSpeed13 raw | .locSpeed14 raw | .locSpeed15 raw
  | .extNop01 raw | .extFunc2 raw | .extFwd raw | .extFunc3 raw | .extNop89 raw | .extBwd raw | .extFunc1 raw
  | .extFunc4 raw => decodeWordOf .locomotive raw

end Sys2Proof
end

