-- ==== Sys2Proof/Machine/State.lean ====
section
/-! DEFINITION. The state of the block as plain data (10_state.md), the values that leave it (responses, outcome labels), the
faults and refusals of a step, and the state after reset (70_reset_and_hazards.md R165). -/

namespace Sys2Proof.Machine

/-- Lifecycle state of a slot (10_state.md R29), in the order of the codes 0 to 5. -/
inductive Lifecycle where
  /-- The slot at `wp`, which the sampler fills with the next accepted frame. -/
  | capturing
  /-- Holds an accepted frame that the decoder has not yet processed. -/
  | readyToDecode
  /-- Decoded, not confirmed by a duplicate. -/
  | decoded
  /-- Decoded and confirmed by an identical predecessor. -/
  | validated
  /-- Returned by POLL. -/
  | consumed
  /-- The bit pattern is not legal for the telegram kind. -/
  | invalid
  deriving DecidableEq, Repr

/-- Extended direction (10_state.md R32), codes 0 to 2. -/
inductive ExtDir where
  | none
  | forward
  | backward
  deriving DecidableEq, Repr

/-- Extended function index (10_state.md R32), codes 0 to 4. -/
inductive ExtFunc where
  | none
  | f1
  | f2
  | f3
  | f4
  deriving DecidableEq, Repr

/-- The derived fields of a slot (10_state.md R33), each at its default (R35) unless a decode writes it. -/
structure Derived where
  variant : Variant := .legacy
  address : Byte := 0#8
  subAddress : BitVec 3 := 0#3
  speedStep : BitVec 4 := 0#4
  stop : Bool := false
  dirChange : Bool := false
  function : Bool := false
  magnetState : Bool := false
  extFuncIndex : ExtFunc := .none
  extFuncOn : Bool := false
  extDir : ExtDir := .none
  deriving DecidableEq, Repr

/-- Every derived field at its default (10_state.md R35). -/
def Derived.default : Derived := {}

/-- The capture fields the sampler writes at acceptance (10_state.md R33): a finalized frame. -/
structure Frame where
  raw : RawBits
  dur : Nat
  kind : Kind
  deriving DecidableEq, Repr

/-- One slot record, a datagram (10_state.md R28, R33). -/
structure Slot where
  state : Lifecycle
  raw : RawBits
  dur : Nat
  kind : Kind
  derived : Derived
  deriving DecidableEq, Repr

/-- The snapshot POLL returns (43_consumer.md R137): the fields of a slot without `state` and without the index. -/
structure Datagram where
  raw : RawBits
  dur : Nat
  kind : Kind
  derived : Derived
  deriving DecidableEq, Repr

/-- The consumer's pass cursor (10_state.md R36). -/
inductive CPhase where
  | idle
  | pass (next : Nat) (thenSelect : Bool)
  deriving DecidableEq, Repr

/-- A value put on the consumer's response channel (30_encoding.md R62). -/
inductive Response where
  /-- DECODE_PASS has ended. -/
  | done
  /-- POLL found no Validated slot. -/
  | pollNone
  /-- POLL consumed a slot; its snapshot. -/
  | pollSome (d : Datagram)
  /-- SLOT_AT: the whole record. -/
  | slotRecord (r : Slot)
  /-- WRITE_PTR: the write pointer. -/
  | writePtr (v : Nat)
  deriving DecidableEq, Repr

/-- Outcome labels of an EDGE step (60_exceptions.md R145), in the order of their codes. -/
inductive EdgeLabel where
  | ignored
  | sync
  | sample
  | resync
  | accept
  | reject
  deriving DecidableEq, Repr

/-- Outcome labels of a slot step (60_exceptions.md R145), in the order of their codes. -/
inductive SlotLabel where
  | skip
  | decoded
  | validated
  | invalid
  deriving DecidableEq, Repr

/-- Outcome labels of a select step (60_exceptions.md R145), in the order of their codes. -/
inductive SelectLabel where
  | none
  | consumed
  deriving DecidableEq, Repr

/-- The outcome label of a step (60_exceptions.md R145). -/
inductive Label where
  | edge (l : EdgeLabel)
  | slot (l : SlotLabel)
  | select (l : SelectLabel)
  deriving DecidableEq, Repr

/-- The three agents (20_memory.md R51). -/
inductive Agent where
  | edge
  | consumer
  | reset
  deriving DecidableEq, Repr

/-- The state of the block, its configuration, and its ports. -/
structure State where
  /-- The configuration, fixed for the life of the block (00_scope.md section 2, 10_state.md R38; log 2). -/
  cfg : Config
  /-- Timestamp of the last edge (R22). -/
  lastTs : Nat
  /-- Timestamp of the edge that started the current capture (R23). -/
  syncTs : Nat
  /-- The sampler is collecting intervals of a frame (R24). -/
  synced : Bool
  /-- Intervals stored in the current frame (R25). -/
  count : Nat
  /-- The interval buffer `iv[0..34]` (R26). -/
  iv : List Nat
  /-- The write pointer (R27). -/
  wp : Nat
  /-- The queue `slot[0..N-1]` (R28). -/
  slots : List Slot
  /-- The consumer's pass cursor (R36). -/
  cphase : CPhase
  /-- A request has been refused (R37). -/
  refusedMark : Bool
  /-- Responses given on the consumer's channel, oldest first (30_encoding.md R62; log 9). -/
  responses : List Response
  /-- Command words waiting at the EDGE producer's port, oldest first (20_memory.md R51; log 1). -/
  edgeIn : List Nat
  /-- Command words waiting at the CONSUMER's port, oldest first. -/
  consumerIn : List Nat
  /-- Command words waiting at the RESET port, oldest first. -/
  resetIn : List Nat
  /-- The order in which the outside world lets the agents move (20_memory.md R53; log 1). -/
  schedule : List Agent
  /-- The outcome label of the last step, if it carries one (60_exceptions.md R145; log 10). -/
  label : Option Label
  deriving DecidableEq, Repr

/-- The faults of a step. There is none: the block never faults (00_scope.md R19) and raises no exception
(60_exceptions.md R151), so nothing raises a fault, and the type has no constructor. -/
inductive Fault where
  deriving DecidableEq, Repr

/-- The refusals of a step that leave no next state. The spec's own refusals (60_exceptions.md R150) are next states with
`refusedMark` set (log 4), so they are not here. -/
inductive Refusal where
  /-- No meaning has been written for the instruction. Raised by no arm of this model; safe. -/
  | notModelled (mnemonic : String)
  deriving DecidableEq, Repr

/-- A slot record after reset (10_state.md R41). -/
def Slot.initial (st : Lifecycle) : Slot where
  state := st
  raw := 0#18
  dur := 0
  kind := .locomotive
  derived := Derived.default

/-- The queue after reset: slot 0 Capturing, the others Consumed (10_state.md R41). -/
def initialSlots (n : Nat) : List Slot :=
  (List.range n).map fun i => Slot.initial (if i = 0 then .capturing else .consumed)

/-- The state after reset under a configuration, with empty ports and no response given (70_reset_and_hazards.md R165). -/
def State.resetOf (c : Config) : State where
  cfg := c
  lastTs := 0
  syncTs := 0
  synced := false
  count := 0
  iv := List.replicate 35 0
  wp := 0
  slots := initialSlots c.capacity
  cphase := .idle
  refusedMark := false
  responses := []
  edgeIn := []
  consumerIn := []
  resetIn := []
  schedule := []
  label := none

/-- The machine right after reset, under the reference configuration REF (DESIGN CHOICE, log 2). -/
def State.reset : State := State.resetOf Config.ref

end Sys2Proof.Machine
end

