-- ==== Sys2Proof/Machine/Flags.lean ====
section
/-! DEFINITION. Flags and codes: the numeric codes of the enumerations (10_state.md R29 to R32, 60_exceptions.md R145), the
tests a finalized frame is classified by (40_sampler.md R89 to R93), and the derived fields each part of a decode writes
(42_decoder.md R113 to R121). -/

namespace Sys2Proof.Machine

/-- Code of a lifecycle state (10_state.md R29). -/
def lifecycleCode : Lifecycle → BitVec 3
  | .capturing => 0
  | .readyToDecode => 1
  | .decoded => 2
  | .validated => 3
  | .consumed => 4
  | .invalid => 5

/-- Code of a telegram kind (10_state.md R30). -/
def kindCode : Kind → BitVec 1
  | .locomotive => 0
  | .magnet => 1

/-- Code of a protocol variant (10_state.md R31). -/
def variantCode : Variant → BitVec 1
  | .legacy => 0
  | .extended => 1

/-- Code of an extended direction (10_state.md R32). -/
def extDirCode : ExtDir → BitVec 2
  | .none => 0
  | .forward => 1
  | .backward => 2

/-- Code of an extended function index (10_state.md R32). -/
def extFuncCode : ExtFunc → BitVec 3
  | .none => 0
  | .f1 => 1
  | .f2 => 2
  | .f3 => 3
  | .f4 => 4

/-- Code of an outcome label within its step (60_exceptions.md R145). -/
def labelCode : Label → Nat
  | .edge .ignored => 0
  | .edge .sync => 1
  | .edge .sample => 2
  | .edge .resync => 3
  | .edge .accept => 4
  | .edge .reject => 5
  | .slot .skip => 0
  | .slot .decoded => 1
  | .slot .validated => 2
  | .slot .invalid => 3
  | .select .none => 0
  | .select .consumed => 1

/-- Sample `k` of the interval buffer (10_state.md R26). -/
def sampleAt (iv : List Nat) (k : Nat) : Nat := iv.getD k 0

/-- The sum of interval pair `k`, exact (00_scope.md R17, 30_encoding.md R80). -/
def pairSum (iv : List Nat) (k : Nat) : Nat := sampleAt iv (2 * k) + sampleAt iv (2 * k + 1)

/-- The unit period (40_sampler.md R90). -/
def unitPeriod (iv : List Nat) : Nat := sampleAt iv 0 + sampleAt iv 1

/-- The telegram kind of a frame with unit period `up` (40_sampler.md R91); "below" is strict. -/
def kindOfPeriod (c : Config) (up : Nat) : Kind := if up < c.magnetThreshold then .magnet else .locomotive

/-- Bit `i` of the frame (40_sampler.md R92). -/
def frameBit (iv : List Nat) (i : Nat) : Bool := decide (unitPeriod iv < 2 * sampleAt iv (2 * i))

/-- The 18 raw bits of the frame (40_sampler.md R92). -/
def frameBits (iv : List Nat) : RawBits := packBits ((List.range 18).map (frameBit iv))

/-- Interval pair `k` lies in the interference band, bounds included (40_sampler.md R93). -/
def inBand (c : Config) (iv : List Nat) (k : Nat) : Bool :=
  decide (c.bandLo ≤ pairSum iv k) && decide (pairSum iv k ≤ c.bandHi)

/-- Some interval pair 0..16 lies in the interference band (40_sampler.md R93). -/
def rejected (c : Config) (iv : List Nat) : Bool := (List.range 17).any (inBand c iv)

/-- The capture fields of a frame finalized at `ts` (40_sampler.md R89 to R92). -/
def frameOf (c : Config) (iv : List Nat) (ts syncTs : Nat) : Frame where
  raw := frameBits iv
  dur := tsSub c.tsWidth ts syncTs
  kind := kindOfPeriod c (unitPeriod iv)

/-- Variant and address, written for both kinds over cleared fields (42_decoder.md R113, R114, R115). -/
def commonFields (c : Config) (raw : RawBits) : Derived :=
  { Derived.default with
    variant := if ext raw then .extended else .legacy
    address := addrLookup c (addrByte raw) }

/-- Sub-address and magnet state (42_decoder.md R116). -/
def magnetFields (raw : RawBits) (d : Derived) : Derived :=
  { d with subAddress := BitVec.ofNat 3 (subCode raw), magnetState := rawBit raw 16 }

/-- The function flag (42_decoder.md R118). -/
def setFunction (raw : RawBits) (d : Derived) : Derived := { d with function := rawBit raw 8 }

/-- Speed code 0 (42_decoder.md R119). -/
def setStop (d : Derived) : Derived := { d with stop := true }

/-- Speed code 1 (42_decoder.md R119). -/
def setDirChange (d : Derived) : Derived := { d with dirChange := true }

/-- A speed step `n` (42_decoder.md R119). -/
def setSpeed (n : Nat) (d : Derived) : Derived := { d with speedStep := BitVec.ofNat 4 n }

/-- The speed field of a locomotive telegram with speed code `s` (42_decoder.md R119). -/
def speedFields (s : Nat) (d : Derived) : Derived :=
  if s = 0 then setStop d else if s = 1 then setDirChange d else setSpeed (s - 1) d

/-- An extended function index with its on/off flag, the low bit of `sMM2` (42_decoder.md R120). -/
def setExtFunc (f : ExtFunc) (raw : RawBits) (d : Derived) : Derived :=
  { d with extFuncIndex := f, extFuncOn := rawBit raw 17 }

/-- An extended direction (42_decoder.md R120). -/
def setExtDir (x : ExtDir) (d : Derived) : Derived := { d with extDir := x }

/-- The sMM2 map (30_encoding.md R76, 42_decoder.md R120, R121). -/
def extMap (raw : RawBits) (d : Derived) : Derived :=
  match extCode raw with
  | 2 | 3 => setExtFunc .f2 raw d
  | 4 | 5 => setExtDir .forward d
  | 6 | 7 => setExtFunc .f3 raw d
  | 10 | 11 => setExtDir .backward d
  | 12 | 13 => setExtFunc .f1 raw d
  | 14 | 15 => setExtFunc .f4 raw d
  | _ => d

/-- The extended fields of a locomotive telegram: the sMM2 map in the extended variant, nothing in the legacy one
(42_decoder.md R120, R131). -/
def extFields (raw : RawBits) (d : Derived) : Derived := if ext raw then extMap raw d else d

/-- The fields of a locomotive telegram before its speed and extended parts (42_decoder.md R113 to R115, R118). -/
def locFields (c : Config) (raw : RawBits) : Derived := setFunction raw (commonFields c raw)

end Sys2Proof.Machine
end

