-- ==== Sys2Proof/Machine/Ops.lean ====
section
/-! DEFINITION. The operations every meaning is built from: access to the slot array, the response channel, refusing a
request (60_exceptions.md R150), the reset of the registers, the ports and turns of the three agents, and the delivery of
request words by the host. There is no exception to take (60_exceptions.md R151, R154): a refusal is the block's only
departure from a request's effect, and it is the one operation `refuse`. -/

namespace Sys2Proof.Machine

/-- Read slot `i` (`MemRead (i, SLOT)`, 00_scope.md R18). Every rule's index is below N; an index outside the list reads
the record of a fresh Consumed slot (log 17). -/
def slotGet (s : State) (i : Nat) : Slot := s.slots.getD i (Slot.initial .consumed)

/-- Write slot `i` (`MemWrite (i, SLOT, r)`, 00_scope.md R18). -/
def slotSet (s : State) (i : Nat) (r : Slot) : State := { s with slots := s.slots.set i r }

/-- Put a value on the response channel (00_scope.md R18, 30_encoding.md R62). -/
def respond (s : State) (r : Response) : State := { s with responses := s.responses ++ [r] }

/-- Record the outcome label of a step (60_exceptions.md R145). -/
def setLabel (s : State) (l : Option Label) : State := { s with label := l }

/-- Refuse a request: `refusedMark` is set, and nothing else of the block changes (60_exceptions.md R150, 10_state.md R37). -/
def refuse (s : State) : State := setLabel { s with refusedMark := true } none

/-- The outcome of a step whose effect is `t` from `s`: under a configuration that is not well formed the request is
refused instead (00_scope.md R15, 60_exceptions.md R150). -/
def guarded (s t : State) : Host.Outcome State Fault Refusal :=
  if s.cfg.wf then .next t else .next (refuse s)

/-- The registers and slots after RESET (70_reset_and_hazards.md R165): everything but the configuration, the refusal
mark, the responses already given and what waits outside at the ports. -/
def resetRegisters (s : State) : State :=
  { State.resetOf s.cfg with
    refusedMark := s.refusedMark
    responses := s.responses
    edgeIn := s.edgeIn
    consumerIn := s.consumerIn
    resetIn := s.resetIn
    schedule := s.schedule }

/-- A consumer request waits while a pass is in progress: it has no step (43_consumer.md R143). -/
def whenIdle (s t : State) : State := if s.cphase = .idle then t else s

/-- The snapshot of a slot (43_consumer.md R137). -/
def snapshot (r : Slot) : Datagram where
  raw := r.raw
  dur := r.dur
  kind := r.kind
  derived := r.derived

/-- The opcode of a command word (30_encoding.md R61). -/
def opOf (w : Nat) : Nat := w % 16

/-- The opcodes of the CONSUMER's four requests (20_memory.md R51, 30_encoding.md R63). -/
def isConsumerOp (op : Nat) : Bool := decide (2 ≤ op) && decide (op ≤ 5)

/-- A word is held at its port: it is a consumer request and a pass is in progress (43_consumer.md R143). -/
def held (s : State) (w : Nat) : Bool := isConsumerOp (opOf w) && decide (s.cphase ≠ .idle)

/-- The words waiting at an agent's port. -/
def portOf (s : State) (a : Agent) : List Nat :=
  match a with
  | .edge => s.edgeIn
  | .consumer => s.consumerIn
  | .reset => s.resetIn

/-- Replace the words waiting at an agent's port. -/
def setPort (s : State) (a : Agent) (ws : List Nat) : State :=
  match a with
  | .edge => { s with edgeIn := ws }
  | .consumer => { s with consumerIn := ws }
  | .reset => { s with resetIn := ws }

/-- The word an agent's port offers now, with the words behind it: the oldest one, unless it is held. -/
def offered (s : State) (a : Agent) : Option (Nat × List Nat) :=
  match portOf s a with
  | [] => none
  | w :: ws => if held s w then none else some (w, ws)

/-- A pass is in progress. -/
def inPass (s : State) : Bool := decide (s.cphase ≠ .idle)

/-- An agent has a step: the CONSUMER while a pass is in progress, and any agent whose port offers a word (20_memory.md
R52, R53). -/
def enabled (s : State) (a : Agent) : Bool :=
  (decide (a = .consumer) && inPass s) || (offered s a).isSome

/-- Which agent moves when the schedule says no more: RESET, then the EDGE producer, then the CONSUMER (DESIGN CHOICE, log
1: the spec admits every order, 20_memory.md R53, and the schedule can say any). -/
def defaultTurn (s : State) : Option Agent :=
  if enabled s .reset then some .reset
  else if enabled s .edge then some .edge
  else if enabled s .consumer then some .consumer
  else none

/-- The agent that moves next, and the schedule left: the first agent of the schedule that has a step. -/
def nextTurn (s : State) : List Agent → Option (Agent × List Agent)
  | [] => (defaultTurn s).map fun a => (a, [])
  | a :: as => if enabled s a then some (a, as) else nextTurn s as

/-- The agent whose request a command word is (20_memory.md R51); a reserved word is given to the CONSUMER. -/
def agentOfWord (w : Nat) : Agent :=
  if opOf w = 1 then .edge else if opOf w = 6 then .reset else .consumer

/-- The turns a request takes (60_exceptions.md R164): N + 2 for DECODE_PASS and POLL, 1 for any other. -/
def turnsOf (s : State) (w : Nat) : Nat :=
  if opOf w = 2 ∨ opOf w = 3 then s.cfg.capacity + 2 else 1

/-- The host delivers one word: it waits at its agent's port, and the schedule lets that agent finish it undisturbed. -/
def deliver (s : State) (w : Nat) : State :=
  let s' := setPort s (agentOfWord w) (portOf s (agentOfWord w) ++ [w])
  { s' with schedule := s'.schedule ++ List.replicate (turnsOf s w) (agentOfWord w) }

/-- The host delivers a list of words in order (log 11). -/
def deliverAll (s : State) : List Nat → State
  | [] => s
  | w :: ws => deliverAll (deliver s w) ws

end Sys2Proof.Machine
end

