-- ==== Sys2Proof/Machine/Consumer.lean ====
section
/-! DEFINITION. The consumer interface: the request POLL, the select step that ends its pass, and the pass end of DECODE_PASS
(42_decoder.md R111, 43_consumer.md R135 to R139). -/

namespace Sys2Proof.Machine

/-- Set the pass cursor (10_state.md R36). -/
def setPhase (p : CPhase) (s : State) : State := { s with cphase := p }

/-- The issue step of POLL (43_consumer.md R135): only the pass cursor changes. -/
def execPoll (s : State) : Host.Outcome State Fault Refusal :=
  guarded s (whenIdle s (setLabel (setPhase (.pass 0 true) s) none))

/-- The smallest index of a Validated slot (43_consumer.md R136). -/
def firstValidated (s : State) : Option Nat := s.slots.findIdx? fun r => decide (r.state = .validated)

/-- A slot that POLL returns: only its state changes (43_consumer.md R136). -/
def toConsumed (r : Slot) : Slot := { r with state := .consumed }

/-- The select step (43_consumer.md R136, R138), with the cursor set back to Idle. -/
def selectStep (s : State) : State :=
  match firstValidated s with
  | some i =>
    setLabel (setPhase .idle (respond (slotSet s i (toConsumed (slotGet s i))) (.pollSome (snapshot (slotGet s i)))))
      (some (.select .consumed))
  | none => setLabel (setPhase .idle (respond s .pollNone)) (some (.select .none))

/-- The pass end of DECODE_PASS (42_decoder.md R111). -/
def passEndStep (s : State) : State := setLabel (setPhase .idle (respond s .done)) none

/-- What the CONSUMER does when every slot step of a pass is done (42_decoder.md R111). -/
def endPass (thenSelect : Bool) (s : State) : State := if thenSelect then selectStep s else passEndStep s

end Sys2Proof.Machine
end

