-- ==== Sys2Proof/Machine/Control.lean ====
section
/-! DEFINITION. RESET (70_reset_and_hazards.md R165, R166) and the reserved opcodes, which are refused (30_encoding.md R67,
60_exceptions.md R150). -/

namespace Sys2Proof.Machine

/-- RESET (70_reset_and_hazards.md R165). A pass in progress is abandoned (R166). -/
def execReset (s : State) : Host.Outcome State Fault Refusal := guarded s (resetRegisters s)

/-- RESERVED_0x0: refused, whatever the operand (30_encoding.md R67). -/
def execReserved0x0 (s : State) : Host.Outcome State Fault Refusal := .next (refuse s)

/-- RESERVED_0x7: refused, whatever the operand (30_encoding.md R67). -/
def execReserved0x7 (s : State) : Host.Outcome State Fault Refusal := .next (refuse s)

/-- RESERVED_0x8_0xF: refused, whatever the opcode and operand (30_encoding.md R67). -/
def execReserved0x8To0xF (s : State) : Host.Outcome State Fault Refusal := .next (refuse s)

end Sys2Proof.Machine
end

