-- ==== Sys2Proof/Machine/Decoder.lean ====
section
/-! DEFINITION. The field decoder: the request DECODE_PASS, the slot step with its parts (42_decoder.md R110 to R125), and the
meaning of every telegram class. A class's meaning is the whole atomic slot step on the slot of the pass cursor, with the
fields its row of opcode_table.json gives; where the row leaves the speed code or the extended code open, the raw bits
decide it. -/

namespace Sys2Proof.Machine

/-- The issue step of DECODE_PASS (42_decoder.md R110): only the pass cursor changes. -/
def execDecodePass (s : State) : Host.Outcome State Fault Refusal :=
  guarded s (whenIdle s (setLabel (setPhase (.pass 0 false) s) none))

/-- A slot record with new derived fields and a new state; its capture fields stay (42_decoder.md R132). -/
def decodedSlot (d : Derived) (st : Lifecycle) (r : Slot) : Slot := { r with derived := d, state := st }

/-- The predecessor is Decoded and holds the same 18 bits (42_decoder.md R123). -/
def confirms (p : Slot) (raw : RawBits) : Bool := decide (p.state = .decoded) && decide (p.raw = raw)

/-- The result of a decode that does not fail (42_decoder.md R122, R123): Decoded, and right after it Validated if the
predecessor confirms. -/
def finishDecoded (d : Derived) (raw : RawBits) (i : Nat) (s : State) : State :=
  let t := slotSet s i (decodedSlot d .decoded (slotGet s i))
  if confirms (slotGet t (prevIndex s.cfg.capacity i)) raw then
    setLabel (slotSet t i (decodedSlot d .validated (slotGet t i))) (some (.slot .validated))
  else
    setLabel t (some (.slot .decoded))

/-- The result of a decode that fails (42_decoder.md R117). -/
def finishInvalid (d : Derived) (i : Nat) (s : State) : State :=
  setLabel (slotSet s i (decodedSlot d .invalid (slotGet s i))) (some (.slot .invalid))

/-- A slot step on a slot that is not ReadyToDecode (42_decoder.md R112): nothing in the slot array changes. -/
def skipSlot (s : State) : State := setLabel s (some (.slot .skip))

/-- One slot step with a given effect on the slot of the pass cursor, which then advances (42_decoder.md R125). Without a
pass in progress, or past the last slot, no slot step is enabled and nothing changes. -/
def slotStep (effect : Nat → State → State) (s : State) : State :=
  match s.cphase with
  | .idle => s
  | .pass i t =>
    if i < s.cfg.capacity then
      setPhase (.pass (i + 1) t) (if (slotGet s i).state = .readyToDecode then effect i s else skipSlot s)
    else s

/-- A slot step that decodes: it writes the derived fields `d` and does not fail. -/
def decodes (d : Derived) (raw : RawBits) (s : State) : Host.Outcome State Fault Refusal :=
  guarded s (slotStep (finishDecoded d raw) s)

/-- A locomotive telegram with the given speed part; its raw bits decide the extended part (42_decoder.md R118 to R122). -/
def decodesLoc (speed : Derived → Derived) (raw : RawBits) (s : State) : Host.Outcome State Fault Refusal :=
  decodes (extFields raw (speed (locFields s.cfg raw))) raw s

/-- An extended locomotive telegram with the given extended part; its raw bits decide the speed part. -/
def decodesExt (extended : Derived → Derived) (raw : RawBits) (s : State) : Host.Outcome State Fault Refusal :=
  decodes (extended (speedFields (speedCode raw) (locFields s.cfg raw))) raw s

/-- MAG: a magnet telegram with `RAW[8] = 0` (42_decoder.md R116, R122). -/
def execMag (raw : RawBits) (s : State) : Host.Outcome State Fault Refusal :=
  decodes (magnetFields raw (commonFields s.cfg raw)) raw s

/-- MAG_BAD: a magnet telegram with `RAW[8] = 1` (42_decoder.md R117); variant and address are still written. -/
def execMagBad (raw : RawBits) (s : State) : Host.Outcome State Fault Refusal :=
  guarded s (slotStep (finishInvalid (commonFields s.cfg raw)) s)

/-- LOC_STOP: speed code 0 (42_decoder.md R119). -/
def execLocStop (raw : RawBits) (s : State) : Host.Outcome State Fault Refusal := decodesLoc setStop raw s

/-- LOC_DIRCHG: speed code 1 (42_decoder.md R119). -/
def execLocDirChg (raw : RawBits) (s : State) : Host.Outcome State Fault Refusal := decodesLoc setDirChange raw s

/-- LOC_SPEED_2: speed code 2, speed step 1 (42_decoder.md R119). -/
def execLocSpeed2 (raw : RawBits) (s : State) : Host.Outcome State Fault Refusal := decodesLoc (setSpeed 1) raw s

/-- LOC_SPEED_3: speed code 3, speed step 2 (42_decoder.md R119). -/
def execLocSpeed3 (raw : RawBits) (s : State) : Host.Outcome State Fault Refusal := decodesLoc (setSpeed 2) raw s

/-- LOC_SPEED_4: speed code 4, speed step 3 (42_decoder.md R119). -/
def execLocSpeed4 (raw : RawBits) (s : State) : Host.Outcome State Fault Refusal := decodesLoc (setSpeed 3) raw s

/-- LOC_SPEED_5: speed code 5, speed step 4 (42_decoder.md R119). -/
def execLocSpeed5 (raw : RawBits) (s : State) : Host.Outcome State Fault Refusal := decodesLoc (setSpeed 4) raw s

/-- LOC_SPEED_6: speed code 6, speed step 5 (42_decoder.md R119). -/
def execLocSpeed6 (raw : RawBits) (s : State) : Host.Outcome State Fault Refusal := decodesLoc (setSpeed 5) raw s

/-- LOC_SPEED_7: speed code 7, speed step 6 (42_decoder.md R119). -/
def execLocSpeed7 (raw : RawBits) (s : State) : Host.Outcome State Fault Refusal := decodesLoc (setSpeed 6) raw s

/-- LOC_SPEED_8: speed code 8, speed step 7 (42_decoder.md R119). -/
def execLocSpeed8 (raw : RawBits) (s : State) : Host.Outcome State Fault Refusal := decodesLoc (setSpeed 7) raw s

/-- LOC_SPEED_9: speed code 9, speed step 8 (42_decoder.md R119). -/
def execLocSpeed9 (raw : RawBits) (s : State) : Host.Outcome State Fault Refusal := decodesLoc (setSpeed 8) raw s

/-- LOC_SPEED_10: speed code 10, speed step 9 (42_decoder.md R119). -/
def execLocSpeed10 (raw : RawBits) (s : State) : Host.Outcome State Fault Refusal := decodesLoc (setSpeed 9) raw s

/-- LOC_SPEED_11: speed code 11, speed step 10 (42_decoder.md R119). -/
def execLocSpeed11 (raw : RawBits) (s : State) : Host.Outcome State Fault Refusal := decodesLoc (setSpeed 10) raw s

/-- LOC_SPEED_12: speed code 12, speed step 11 (42_decoder.md R119). -/
def execLocSpeed12 (raw : RawBits) (s : State) : Host.Outcome State Fault Refusal := decodesLoc (setSpeed 11) raw s

/-- LOC_SPEED_13: speed code 13, speed step 12 (42_decoder.md R119). -/
def execLocSpeed13 (raw : RawBits) (s : State) : Host.Outcome State Fault Refusal := decodesLoc (setSpeed 12) raw s

/-- LOC_SPEED_14: speed code 14, speed step 13 (42_decoder.md R119). -/
def execLocSpeed14 (raw : RawBits) (s : State) : Host.Outcome State Fault Refusal := decodesLoc (setSpeed 13) raw s

/-- LOC_SPEED_15: speed code 15, speed step 14 (42_decoder.md R119). -/
def execLocSpeed15 (raw : RawBits) (s : State) : Host.Outcome State Fault Refusal := decodesLoc (setSpeed 14) raw s

/-- EXT_NOP_0_1: sMM2 0 or 1, no extended field (42_decoder.md R121). -/
def execExtNop01 (raw : RawBits) (s : State) : Host.Outcome State Fault Refusal := decodesExt id raw s

/-- EXT_FUNC2: sMM2 2 or 3, extended function 2 (42_decoder.md R120). -/
def execExtFunc2 (raw : RawBits) (s : State) : Host.Outcome State Fault Refusal := decodesExt (setExtFunc .f2 raw) raw s

/-- EXT_FWD: sMM2 4 or 5, direction Forward (42_decoder.md R120). -/
def execExtFwd (raw : RawBits) (s : State) : Host.Outcome State Fault Refusal := decodesExt (setExtDir .forward) raw s

/-- EXT_FUNC3: sMM2 6 or 7, extended function 3 (42_decoder.md R120). -/
def execExtFunc3 (raw : RawBits) (s : State) : Host.Outcome State Fault Refusal := decodesExt (setExtFunc .f3 raw) raw s

/-- EXT_NOP_8_9: sMM2 8 or 9, no extended field (42_decoder.md R121). -/
def execExtNop89 (raw : RawBits) (s : State) : Host.Outcome State Fault Refusal := decodesExt id raw s

/-- EXT_BWD: sMM2 10 or 11, direction Backward (42_decoder.md R120). -/
def execExtBwd (raw : RawBits) (s : State) : Host.Outcome State Fault Refusal := decodesExt (setExtDir .backward) raw s

/-- EXT_FUNC1: sMM2 12 or 13, extended function 1 (42_decoder.md R120). -/
def execExtFunc1 (raw : RawBits) (s : State) : Host.Outcome State Fault Refusal := decodesExt (setExtFunc .f1 raw) raw s

/-- EXT_FUNC4: sMM2 14 or 15, extended function 4 (42_decoder.md R120). -/
def execExtFunc4 (raw : RawBits) (s : State) : Host.Outcome State Fault Refusal := decodesExt (setExtFunc .f4 raw) raw s

/-- The slot step of a slot that is not ReadyToDecode (42_decoder.md R112, R125): only the pass cursor advances. -/
def skipStep (s : State) : State :=
  match s.cphase with
  | .idle => s
  | .pass i t => setPhase (.pass (i + 1) t) (skipSlot s)

/-- The slot step the CONSUMER takes where there is no telegram to decode. -/
def passSkip (s : State) : Host.Outcome State Fault Refusal := guarded s (skipStep s)

end Sys2Proof.Machine
end

