-- ==== Sys2Proof/Machine/Queue.lean ====
section
/-! DEFINITION. The datagram queue's two observation requests (41_queue.md R100, R101). Each responds and changes nothing; while a
pass is in progress neither has a step (43_consumer.md R143). -/

namespace Sys2Proof.Machine

/-- SLOT_AT (41_queue.md R100). -/
def execSlotAt (idx : Nat) (s : State) : Host.Outcome State Fault Refusal :=
  guarded s (whenIdle s (setLabel (respond s (.slotRecord (slotGet s (slotIndex s.cfg.capacity idx)))) none))

/-- WRITE_PTR (41_queue.md R101). -/
def execWritePtr (s : State) : Host.Outcome State Fault Refusal :=
  guarded s (whenIdle s (setLabel (respond s (.writePtr (zextWritePtr s.cfg s.wp))) none))

end Sys2Proof.Machine
end

