-- ==== Sys2Proof/Machine/Sampler.lean ====
section
/-! DEFINITION. The edge-timing sampler: the one request EDGE (40_sampler.md R81 to R99). Each outcome of the pseudocode R96
is one operation, and `edgeStep` chooses among them. -/

namespace Sys2Proof.Machine

/-- IGNORED (40_sampler.md R84): only `lastTs`, already written, changes. -/
def edgeIgnored (s : State) : State := setLabel s (some (.edge .ignored))

/-- SYNC (40_sampler.md R83). -/
def edgeSync (ts : Nat) (s : State) : State :=
  setLabel { s with syncTs := ts, synced := true, count := 0 } (some (.edge .sync))

/-- RESYNC (40_sampler.md R85): `synced` stays 1. -/
def edgeResync (ts : Nat) (s : State) : State :=
  setLabel { s with syncTs := ts, count := 0 } (some (.edge .resync))

/-- The stored sample (40_sampler.md R86): `iv[count] <- floor (delta / RATIO)`, and `count` advances. -/
def storeSample (delta : Nat) (s : State) : State :=
  { s with iv := s.iv.set s.count (delta / s.cfg.ratio), count := s.count + 1 }

/-- The slot a frame was accepted into: its capture fields and its state change (40_sampler.md R94). -/
def fillSlot (f : Frame) (r : Slot) : Slot :=
  { r with raw := f.raw, dur := f.dur, kind := f.kind, state := .readyToDecode }

/-- A slot that becomes Capturing: only its state changes (41_queue.md R103). -/
def toCapturing (r : Slot) : Slot := { r with state := .capturing }

/-- The queue's part of an acceptance (40_sampler.md R94): fill the write slot, advance the write pointer, and set the new
write slot to Capturing. -/
def enqueue (f : Frame) (s : State) : State :=
  let filled := slotSet s s.wp (fillSlot f (slotGet s s.wp))
  let w := nextIndex s.cfg.capacity s.wp
  { slotSet filled w (toCapturing (slotGet filled w)) with wp := w }

/-- The end of a frame (40_sampler.md R95), accepted or not. -/
def endFrame (s : State) : State := { s with count := 0, synced := false }

/-- Finalization (40_sampler.md R88 to R95), with all 35 samples stored. -/
def finalize (ts : Nat) (s : State) : State :=
  if rejected s.cfg s.iv then
    setLabel (endFrame s) (some (.edge .reject))
  else
    setLabel (endFrame (enqueue (frameOf s.cfg s.iv ts s.syncTs) s)) (some (.edge .accept))

/-- A stored sample and, with the 35th, the finalization (40_sampler.md R86, R88). -/
def edgeSample (ts : Nat) (delta : Nat) (s : State) : State :=
  let t := storeSample delta s
  if t.count < 35 then setLabel t (some (.edge .sample)) else finalize ts t

/-- The interval since the last edge (40_sampler.md R82). -/
def deltaOf (ts : Nat) (s : State) : Nat := tsSub s.cfg.tsWidth ts s.lastTs

/-- One EDGE step (40_sampler.md R96). -/
def edgeStep (ts : Nat) (s : State) : State :=
  let delta := deltaOf ts s
  let t := { s with lastTs := ts }
  if s.synced = false then
    if s.cfg.gapThreshold < delta then edgeSync ts t else edgeIgnored t
  else if s.cfg.gapThreshold < delta then edgeResync ts t
  else edgeSample ts delta t

/-- EDGE (40_sampler.md R81, R96). -/
def execEdge (ts : Nat) (s : State) : Host.Outcome State Fault Refusal := guarded s (edgeStep ts s)

end Sys2Proof.Machine
end

