-- ==== Sys2Proof/Machine/Dispatch.lean ====
section
/-! DEFINITION. The dispatch: one arm per constructor of Instr, each a direct call of its meaning. -/

namespace Sys2Proof.Machine

def exec (i : Instr) (s : State) : Host.Outcome State Fault Refusal :=
  match i with
  | .edge ts => Sys2Proof.Machine.execEdge ts s
  | .decodePass => Sys2Proof.Machine.execDecodePass s
  | .poll => Sys2Proof.Machine.execPoll s
  | .slotAt idx => Sys2Proof.Machine.execSlotAt idx s
  | .writePtr => Sys2Proof.Machine.execWritePtr s
  | .reset => Sys2Proof.Machine.execReset s
  | .reserved0x0 _ => Sys2Proof.Machine.execReserved0x0 s
  | .reserved0x7 _ => Sys2Proof.Machine.execReserved0x7 s
  | .reserved0x8To0xF _ _ => Sys2Proof.Machine.execReserved0x8To0xF s
  | .mag raw => Sys2Proof.Machine.execMag raw s
  | .magBad raw => Sys2Proof.Machine.execMagBad raw s
  | .locStop raw => Sys2Proof.Machine.execLocStop raw s
  | .locDirChg raw => Sys2Proof.Machine.execLocDirChg raw s
  | .locSpeed2 raw => Sys2Proof.Machine.execLocSpeed2 raw s
  | .locSpeed3 raw => Sys2Proof.Machine.execLocSpeed3 raw s
  | .locSpeed4 raw => Sys2Proof.Machine.execLocSpeed4 raw s
  | .locSpeed5 raw => Sys2Proof.Machine.execLocSpeed5 raw s
  | .locSpeed6 raw => Sys2Proof.Machine.execLocSpeed6 raw s
  | .locSpeed7 raw => Sys2Proof.Machine.execLocSpeed7 raw s
  | .locSpeed8 raw => Sys2Proof.Machine.execLocSpeed8 raw s
  | .locSpeed9 raw => Sys2Proof.Machine.execLocSpeed9 raw s
  | .locSpeed10 raw => Sys2Proof.Machine.execLocSpeed10 raw s
  | .locSpeed11 raw => Sys2Proof.Machine.execLocSpeed11 raw s
  | .locSpeed12 raw => Sys2Proof.Machine.execLocSpeed12 raw s
  | .locSpeed13 raw => Sys2Proof.Machine.execLocSpeed13 raw s
  | .locSpeed14 raw => Sys2Proof.Machine.execLocSpeed14 raw s
  | .locSpeed15 raw => Sys2Proof.Machine.execLocSpeed15 raw s
  | .extNop01 raw => Sys2Proof.Machine.execExtNop01 raw s
  | .extFunc2 raw => Sys2Proof.Machine.execExtFunc2 raw s
  | .extFwd raw => Sys2Proof.Machine.execExtFwd raw s
  | .extFunc3 raw => Sys2Proof.Machine.execExtFunc3 raw s
  | .extNop89 raw => Sys2Proof.Machine.execExtNop89 raw s
  | .extBwd raw => Sys2Proof.Machine.execExtBwd raw s
  | .extFunc1 raw => Sys2Proof.Machine.execExtFunc1 raw s
  | .extFunc4 raw => Sys2Proof.Machine.execExtFunc4 raw s

end Sys2Proof.Machine
end

