-- ==== Sys2Proof/Machine/Step.lean ====
section
/-! DEFINITION. One atomic step of the block (20_memory.md R52, R53): the agent whose turn it is takes its next step. It has
three outcomes: next, fault and refusal, of which only next occurs (00_scope.md R19; a refusal of the spec is a next state
with the refusal mark, log 4). -/

namespace Sys2Proof.Machine

/-- Run a request word: the decoded request, or a refusal where the word decodes to none (60_exceptions.md R150). -/
def runWord (w : Nat) (s : State) : Host.Outcome State Fault Refusal :=
  match decodeCmd s.cfg.tsWidth w with
  | .ok i => exec i s
  | .error _ => .next (refuse s)

/-- The CONSUMER's own step while a pass is in progress (42_decoder.md R111, R125): the slot step of slot `next`, or the end
of the pass. A ReadyToDecode slot runs the telegram class its kind and raw bits decode to. -/
def passStep (s : State) : Host.Outcome State Fault Refusal :=
  match s.cphase with
  | .idle => .next s
  | .pass i t =>
    if i < s.cfg.capacity then
      if (slotGet s i).state = .readyToDecode then
        exec (decodeTelegram (slotGet s i).kind (slotGet s i).raw) s
      else passSkip s
    else guarded s (endPass t s)

/-- The step of an agent: the CONSUMER goes on with a pass in progress; otherwise the agent's port gives its next word. -/
def agentStep (a : Agent) (s : State) : Host.Outcome State Fault Refusal :=
  if a = .consumer ∧ inPass s = true then passStep s
  else
    match offered s a with
    | none => .next s
    | some (w, ws) => runWord w (setPort s a ws)

/-- One step. With no agent enabled the block is idle and keeps all state (60_exceptions.md R161; log 7). -/
def step (s : State) : Host.Outcome State Fault Refusal :=
  match nextTurn s s.schedule with
  | none => .next s
  | some (a, rest) => agentStep a { s with schedule := rest }

/-- The slot in which `withFetchWord` places a telegram: the one after the write slot. -/
def fetchSlot (s : State) : Nat := nextIndex s.cfg.capacity s.wp

/-- `s` with the word `w` of opcode_table.json placed so that the very next step runs it (log 11). A command word waits
first at its agent's port and that agent has the next turn; a consumer request needs the cursor at Idle. A decode word is
the telegram of a ReadyToDecode slot that the pass in progress has reached. -/
def State.withFetchWord (s : State) (nbits w : Nat) : State :=
  if isTelegramWidth nbits then
    let i := fetchSlot s
    let t := slotSet s i { slotGet s i with state := .readyToDecode, raw := BitVec.ofNat 18 w, kind := kindOfWord w }
    { t with cphase := .pass i false, schedule := .consumer :: t.schedule }
  else
    let a := agentOfWord w
    let t := setPort s a (w :: portOf s a)
    { t with cphase := if a = .consumer then .idle else t.cphase, schedule := a :: t.schedule }

end Sys2Proof.Machine
end

