-- ==== Sys2Proof/Machine/Assembler.lean ====
section
/-! DEFINITION. The assembler notation of 30_encoding.md R69: its six requests, its two pseudo-instructions `burst` and
`tgm`, their expansion into command words, and a reader of one line of text (as a list of characters). -/

namespace Sys2Proof.Machine

/-- One line of a program (30_encoding.md R69). -/
inductive AsmLine where
  | edge (ts : Nat)
  | decode
  | poll
  | slotat (idx : Nat)
  | wrptr
  | reset
  /-- `burst T0, d1, ..., dk`: k + 1 edges. -/
  | burst (t0 : Nat) (ds : List Nat)
  /-- `tgm T0, B, H1, L1, H0, L0`: one telegram with raw bits `B`, first character `RAW[0]`. -/
  | tgm (t0 : Nat) (bits : List Bool) (h1 l1 h0 l0 : Nat)
  deriving DecidableEq, Repr

/-- The edge times of `burst t0, ds`. -/
def burstTimes (t0 : Nat) : List Nat → List Nat
  | [] => [t0]
  | d :: ds => t0 :: burstTimes (t0 + d) ds

/-- The intervals of `tgm`: bit `i` gives `H1, L1` or `H0, L0`. -/
def tgmIntervals (bits : List Bool) (h1 l1 h0 l0 : Nat) : List Nat :=
  bits.flatMap fun b => if b then [h1, l1] else [h0, l0]

/-- The command words of edges at the given times, taken modulo `2 ^ TS_WIDTH`. -/
def edgeWords (t : Nat) (times : List Nat) : List Nat := times.map fun ts => encode (.edge (ts % 2 ^ t))

/-- The command words a line stands for, under timestamp width `t`. -/
def asmWords (t : Nat) : AsmLine → List Nat
  | .edge ts => [encode (.edge ts)]
  | .decode => [encode .decodePass]
  | .poll => [encode .poll]
  | .slotat idx => [encode (.slotAt idx)]
  | .wrptr => [encode .writePtr]
  | .reset => [encode .reset]
  | .burst t0 ds => edgeWords t (burstTimes t0 ds)
  | .tgm t0 bits h1 l1 h0 l0 => edgeWords t (burstTimes t0 (tgmIntervals bits h1 l1 h0 l0))

/-- A line without its comment, which `;` starts. -/
def dropComment : List Char → List Char
  | [] => []
  | c :: cs => if c = ';' then [] else c :: dropComment cs

/-- The fields of a line, which spaces, tabs and commas separate; `acc` is the field being read, last character first. -/
def fieldsOf (acc : List Char) : List Char → List (List Char)
  | [] => if acc = [] then [] else [acc.reverse]
  | c :: cs =>
    if c = ' ' ∨ c = ',' ∨ c = '\t' then
      if acc = [] then fieldsOf [] cs else acc.reverse :: fieldsOf [] cs
    else fieldsOf (c :: acc) cs

/-- A digit of a number in base `base`. -/
def digitOf (base : Nat) (c : Char) : Option Nat :=
  let n := c.toNat
  let d := if 48 ≤ n ∧ n ≤ 57 then n - 48
    else if 97 ≤ n ∧ n ≤ 102 then n - 87
    else if 65 ≤ n ∧ n ≤ 70 then n - 55
    else base
  if d < base then some d else none

/-- The digits of a number, read after the value `v` of the digits before them. -/
def readDigits (base v : Nat) : List Char → Option Nat
  | [] => some v
  | c :: cs =>
    match digitOf base c with
    | some d => readDigits base (v * base + d) cs
    | none => none

/-- A number: decimal, or hexadecimal with `0x` (30_encoding.md R69). -/
def readNumber : List Char → Option Nat
  | [] => none
  | '0' :: 'x' :: c :: cs => readDigits 16 0 (c :: cs)
  | c :: cs => readDigits 10 0 (c :: cs)

/-- Numbers. -/
def readNumbers : List (List Char) → Option (List Nat)
  | [] => some []
  | f :: fs =>
    match readNumber f, readNumbers fs with
    | some n, some ns => some (n :: ns)
    | _, _ => none

/-- A pattern of 0 and 1. -/
def readBits : List Char → Option (List Bool)
  | [] => some []
  | c :: cs =>
    match readBits cs with
    | some bs => if c = '0' then some (false :: bs) else if c = '1' then some (true :: bs) else none
    | none => none

/-- The line a list of fields stands for. -/
def lineOf : List (List Char) → Option AsmLine
  | [['e', 'd', 'g', 'e'], t] => (readNumber t).map .edge
  | [['d', 'e', 'c', 'o', 'd', 'e']] => some .decode
  | [['p', 'o', 'l', 'l']] => some .poll
  | [['s', 'l', 'o', 't', 'a', 't'], i] => (readNumber i).map .slotat
  | [['w', 'r', 'p', 't', 'r']] => some .wrptr
  | [['r', 'e', 's', 'e', 't']] => some .reset
  | ['b', 'u', 'r', 's', 't'] :: fs =>
    match readNumbers fs with
    | some (t0 :: ds) => some (.burst t0 ds)
    | _ => none
  | [['t', 'g', 'm'], t0, b, h1, l1, h0, l0] =>
    match readNumbers [t0, h1, l1, h0, l0], readBits b with
    | some [t0, h1, l1, h0, l0], some bits =>
      if bits.length = 18 then some (.tgm t0 bits h1 l1 h0 l0) else none
    | _, _ => none
  | _ => none

/-- Read one line of text: nothing on an empty line or a comment, `none` where the text is no line of the notation. -/
def readLine (text : List Char) : Option (List AsmLine) :=
  match fieldsOf [] (dropComment text) with
  | [] => some []
  | fs => (lineOf fs).map fun l => [l]

end Sys2Proof.Machine
end

