-- ==== Sys2Proof/Safety.lean ====
section
/-! DEFINITION. What claims are stated in: the invariants of the block (10_state.md section 5), the lifecycle transitions the
spec lists (10_state.md R45), the moves of the pass cursor, the retention of accepted frames (41_queue.md R104), the telegram
tables and the slot step written field by field from the spec (30_encoding.md R76, 42_decoder.md R113 to R125), and runs of the
CONSUMER's own turns. -/

namespace Sys2Proof.Machine

/-- The two indexed stores have the sizes the spec gives them (20_memory.md R46). -/
def storesWf (s : State) : Bool := decide (s.slots.length = s.cfg.capacity) && decide (s.iv.length = 35)

/-- The queue invariant: the stores have their sizes, `wp` is an index of a slot (10_state.md R27), and exactly the write slot
is Capturing (10_state.md R39). -/
structure QueueInv (s : State) : Prop where
  stores : storesWf s = true
  wp_lt : s.wp < s.cfg.capacity
  capturing : ∀ i < s.cfg.capacity, (slotGet s i).state = .capturing ↔ i = s.wp

/-- The sampler invariant: timestamps and durations fit in `TS_WIDTH` bits, samples in W bits (40_sampler.md R87), and the
capture counter obeys 10_state.md R40. -/
structure SamplerInv (s : State) : Prop where
  lastTs_lt : s.lastTs < 2 ^ s.cfg.tsWidth
  syncTs_lt : s.syncTs < 2 ^ s.cfg.tsWidth
  count_le : s.count ≤ 34
  unsynced_count : s.synced = false → s.count = 0
  samples_le : ∀ x ∈ s.iv, x ≤ 2 ^ s.cfg.sampleWidth - 1
  dur_lt : ∀ r ∈ s.slots, r.dur < 2 ^ s.cfg.tsWidth

/-- The pass cursor is in its range (10_state.md R36). -/
def CursorInv (s : State) : Prop := ∀ i t, s.cphase = .pass i t → i ≤ s.cfg.capacity

/-- `RAW[11] RAW[13] RAW[15]` select an extended function (30_encoding.md R76). -/
def tableFunc (raw : RawBits) : ExtFunc :=
  match rawBit raw 11, rawBit raw 13, rawBit raw 15 with
  | false, false, true => .f2
  | false, true, true => .f3
  | true, true, false => .f1
  | true, true, true => .f4
  | _, _, _ => .none

/-- `RAW[11] RAW[13] RAW[15]` select an extended direction (30_encoding.md R76). -/
def tableDir (raw : RawBits) : ExtDir :=
  match rawBit raw 11, rawBit raw 13, rawBit raw 15 with
  | false, true, false => .forward
  | true, false, true => .backward
  | _, _, _ => .none

/-- The only failing decode: a magnet telegram with `RAW[8] = 1` (42_decoder.md R117). -/
def decodeFails (k : Kind) (raw : RawBits) : Bool := decide (k = .magnet) && rawBit raw 8

/-- Every derived field of a decoded slot as a function of its raw bits and kind (42_decoder.md R113 to R121), one field a
line, without the classes of opcode_table.json. -/
def derivedOf (c : Config) (k : Kind) (raw : RawBits) : Derived where
  variant := if ext raw then .extended else .legacy
  address := addrLookup c (addrByte raw)
  subAddress := if k = .magnet ∧ rawBit raw 8 = false then BitVec.ofNat 3 (subCode raw) else 0#3
  speedStep := if k = .locomotive ∧ 2 ≤ speedCode raw then BitVec.ofNat 4 (speedCode raw - 1) else 0#4
  stop := decide (k = .locomotive ∧ speedCode raw = 0)
  dirChange := decide (k = .locomotive ∧ speedCode raw = 1)
  function := decide (k = .locomotive) && rawBit raw 8
  magnetState := decide (k = .magnet) && !rawBit raw 8 && rawBit raw 16
  extFuncIndex := if k = .locomotive ∧ ext raw = true then tableFunc raw else .none
  extFuncOn := decide (k = .locomotive) && ext raw && decide (tableFunc raw ≠ .none) && rawBit raw 17
  extDir := if k = .locomotive ∧ ext raw = true then tableDir raw else .none

/-- The fields of a locomotive telegram that its speed code does not decide (42_decoder.md R114, R115, R118, R120, R121). -/
def locDerived (c : Config) (raw : RawBits) : Derived :=
  { Derived.default with
    variant := if ext raw then .extended else .legacy
    address := addrLookup c (addrByte raw)
    function := rawBit raw 8
    extFuncIndex := if ext raw then tableFunc raw else .none
    extFuncOn := ext raw && decide (tableFunc raw ≠ .none) && rawBit raw 17
    extDir := if ext raw then tableDir raw else .none }

/-- The fields of a locomotive telegram that its extended code does not decide (42_decoder.md R114, R115, R118, R119). -/
def speedDerived (c : Config) (raw : RawBits) : Derived :=
  { Derived.default with
    variant := if ext raw then .extended else .legacy
    address := addrLookup c (addrByte raw)
    function := rawBit raw 8
    stop := decide (speedCode raw = 0)
    dirChange := decide (speedCode raw = 1)
    speedStep := if 2 ≤ speedCode raw then BitVec.ofNat 4 (speedCode raw - 1) else 0#4 }

/-- A slot that the decoder has processed holds what its raw bits and kind give (42_decoder.md R113). Invalid slots are exactly
those whose decode fails (42_decoder.md R117, R122), and a Consumed slot is one that POLL took from Validated (43_consumer.md
R136) or one that no frame has reached since reset (10_state.md R41). -/
def SlotDecoded (c : Config) (r : Slot) : Prop :=
  ((r.state = .decoded ∨ r.state = .validated) →
    decodeFails r.kind r.raw = false ∧ r.derived = derivedOf c r.kind r.raw) ∧
  (r.state = .invalid → decodeFails r.kind r.raw = true ∧ r.derived = derivedOf c r.kind r.raw) ∧
  (r.state = .consumed → r = Slot.initial .consumed ∨
    decodeFails r.kind r.raw = false ∧ r.derived = derivedOf c r.kind r.raw)

/-- The decoder invariant: every processed slot is decoded right, and every speed step is in 0..14 (10_state.md R28). -/
structure DecoderInv (s : State) : Prop where
  decoded : ∀ r ∈ s.slots, SlotDecoded s.cfg r
  speed_le : ∀ r ∈ s.slots, r.derived.speedStep.toNat ≤ 14

/-- The invariant of the block under a well-formed configuration. -/
structure Inv (s : State) : Prop where
  cfg_wf : s.cfg.wf = true
  queue : QueueInv s
  sampler : SamplerInv s
  cursor : CursorInv s
  decoder : DecoderInv s

/-- No slot is Validated. -/
def NoValidated (s : State) : Prop := ∀ r ∈ s.slots, r.state ≠ .validated

/-- The predecessor of slot `i` validates it (42_decoder.md R123): it is Decoded and holds the same raw bits. With N = 1 the
slot is its own predecessor, and has just become Decoded (42_decoder.md R125). -/
def confirmed (s : State) (i : Nat) (raw : RawBits) : Bool :=
  if prevIndex s.cfg.capacity i = i then decide ((slotGet s i).raw = raw)
  else confirms (slotGet s (prevIndex s.cfg.capacity i)) raw

/-- The next turn is the CONSUMER's (20_memory.md R51, R53; log 1). -/
def ConsumerTurn (s : State) : Prop := ∃ rest, nextTurn s s.schedule = some (.consumer, rest)

/-- The step from `s` to `t` took the command word of request `i` off the port of the agent whose turn it was, and ran it
(20_memory.md R52). Which port that is, is left open (log 12). -/
def TookWord (s t : State) (i : Instr) : Prop :=
  ∃ a rest w ws, nextTurn s s.schedule = some (a, rest) ∧ ¬(a = .consumer ∧ s.cphase ≠ .idle) ∧ portOf s a = w :: ws ∧
    held s w = false ∧ decodeCmd s.cfg.tsWidth w = .ok i ∧ exec i (setPort { s with schedule := rest } a ws) = .next t

/-- The step took a RESET (70_reset_and_hazards.md R165). -/
def TookReset (s t : State) : Prop := TookWord s t .reset

/-- The step took an EDGE at `ts` with outcome ACCEPT (40_sampler.md R94). -/
def AcceptedEdge (s t : State) (ts : Nat) : Prop := TookWord s t (.edge ts) ∧ t.label = some (.edge .accept)

/-- The frame that an accepting EDGE at `ts` finalizes: the samples stored so far with the one of this edge (40_sampler.md R86,
R89 to R92). -/
def acceptedFrame (s : State) (ts : Nat) : Frame :=
  frameOf s.cfg (s.iv.set s.count (deltaOf ts s / s.cfg.ratio)) ts s.syncTs

/-- The step was the slot step of slot `i`: the CONSUMER's own, in a pass whose cursor named `i` and then moved on
(42_decoder.md R125). -/
def SlotTurn (s t : State) (i : Nat) : Prop :=
  ConsumerTurn s ∧ ∃ b, s.cphase = .pass i b ∧ t.cphase = .pass (i + 1) b

/-- What a step other than RESET may do to the lifecycle state of slot `i`, with the agent and the condition of each transition
(10_state.md R45): `s` is the state before the step and `t` the state after it. -/
inductive Transition (s t : State) (i : Nat) : Prop where
  /-- The state stays. -/
  | stays (h : (slotGet t i).state = (slotGet s i).state)
  /-- Capturing to ReadyToDecode, by the sampler: a frame was accepted into the write slot. -/
  | accepted (ts : Nat) (who : AcceptedEdge s t ts) (ho : (slotGet s i).state = .capturing)
      (hn : (slotGet t i).state = .readyToDecode) (hi : i = s.wp)
  /-- Any state to Capturing, by the sampler: the write pointer took the slot over. -/
  | takenOver (ts : Nat) (who : AcceptedEdge s t ts) (hn : (slotGet t i).state = .capturing)
      (hi : i = (s.wp + 1) % s.cfg.capacity)
  /-- ReadyToDecode to Decoded, by the decoder: the decode succeeds and no predecessor confirms. -/
  | decoded (who : SlotTurn s t i) (ho : (slotGet s i).state = .readyToDecode) (hn : (slotGet t i).state = .decoded)
      (hd : decodeFails (slotGet s i).kind (slotGet s i).raw = false) (hc : confirmed s i (slotGet s i).raw = false)
  /-- ReadyToDecode through Decoded to Validated in one slot step: the decode succeeds and the predecessor confirms. -/
  | validated (who : SlotTurn s t i) (ho : (slotGet s i).state = .readyToDecode) (hn : (slotGet t i).state = .validated)
      (hd : decodeFails (slotGet s i).kind (slotGet s i).raw = false) (hc : confirmed s i (slotGet s i).raw = true)
  /-- ReadyToDecode to Invalid, by the decoder: a magnet telegram with `RAW[8] = 1`. -/
  | invalid (who : SlotTurn s t i) (ho : (slotGet s i).state = .readyToDecode) (hn : (slotGet t i).state = .invalid)
      (hd : decodeFails (slotGet s i).kind (slotGet s i).raw = true)
  /-- Validated to Consumed, by the consumer: the select step of POLL took the slot, the first Validated one. -/
  | consumed (who : ConsumerTurn s) (hp : s.cphase = .pass s.cfg.capacity true) (ht : t.cphase = .idle)
      (ho : (slotGet s i).state = .validated) (hn : (slotGet t i).state = .consumed)
      (hf : ∀ j < i, (slotGet s j).state ≠ .validated)

/-- A value that ends a pass: DONE for DECODE_PASS (42_decoder.md R111), NONE or a snapshot for POLL (43_consumer.md R136). -/
def endsPass (thenSelect : Bool) (r : Response) : Prop :=
  if thenSelect then r = .pollNone ∨ ∃ d, r = .pollSome d else r = .done

/-- What a step may do to the pass cursor and the responses, with the agent of each move (42_decoder.md R110, R111, R125,
43_consumer.md R135, R136, 20_memory.md R53): a turn of the CONSUMER always moves a pass on, and no EDGE does. -/
inductive CursorMove (s t : State) : Prop where
  /-- Idle, and no pass was issued. -/
  | idle (ho : s.cphase = .idle) (hn : t.cphase = .idle)
  /-- The issue step of DECODE_PASS. -/
  | issuedDecode (who : TookWord s t .decodePass) (ho : s.cphase = .idle) (hn : t.cphase = .pass 0 false)
      (hr : t.responses = s.responses)
  /-- The issue step of POLL. -/
  | issuedPoll (who : TookWord s t .poll) (ho : s.cphase = .idle) (hn : t.cphase = .pass 0 true)
      (hr : t.responses = s.responses)
  /-- A slot step: the CONSUMER's turn in a pass with slots left. -/
  | slotStep (i : Nat) (b : Bool) (who : ConsumerTurn s) (ho : s.cphase = .pass i b) (hi : i < s.cfg.capacity)
      (hn : t.cphase = .pass (i + 1) b) (hr : t.responses = s.responses)
  /-- The end of a pass: the CONSUMER's turn with no slot left, with exactly one response. -/
  | passEnd (b : Bool) (r : Response) (who : ConsumerTurn s) (ho : s.cphase = .pass s.cfg.capacity b)
      (hn : t.cphase = .idle) (hr : t.responses = s.responses ++ [r]) (hk : endsPass b r)
  /-- Another agent's step in a pass: EDGE, or a refusal. -/
  | preempted (i : Nat) (b : Bool) (who : ¬ConsumerTurn s) (ho : s.cphase = .pass i b) (hn : t.cphase = .pass i b)
      (hr : t.responses = s.responses)
  /-- RESET abandons a pass (70_reset_and_hazards.md R166). -/
  | reset (i : Nat) (b : Bool) (who : TookReset s t) (ho : s.cphase = .pass i b) (hn : t.cphase = .idle)
      (hr : t.responses = s.responses)

/-- In a pass every slot that the cursor has left behind has been processed, but for the slots of `fresh`, into which a frame was
accepted since (42_decoder.md R112, R126). -/
def PassClean (s : State) (fresh : List Nat) : Prop :=
  ∀ i b, s.cphase = .pass i b → ∀ j < i, (slotGet s j).state = .readyToDecode → j ∈ fresh

/-- The queue against the list of the frames accepted since the last RESET, oldest first, counted from 0 (41_queue.md R104). -/
structure Retains (s : State) (fs : List Frame) : Prop where
  /-- The write pointer counts the frames modulo N. -/
  wp_eq : s.wp = fs.length % s.cfg.capacity
  /-- Each of the newest N frames is in its slot. -/
  kept : ∀ j f, fs[j]? = some f → fs.length ≤ j + s.cfg.capacity →
    (slotGet s (j % s.cfg.capacity)).raw = f.raw ∧ (slotGet s (j % s.cfg.capacity)).dur = f.dur ∧
    (slotGet s (j % s.cfg.capacity)).kind = f.kind
  /-- Each of the newest N - 1 frames is in a slot that is not Capturing. -/
  not_capturing : ∀ j f, fs[j]? = some f → fs.length < j + s.cfg.capacity →
    (slotGet s (j % s.cfg.capacity)).state ≠ .capturing

/-- A slot step on slot `i` is enabled and the slot is ReadyToDecode (42_decoder.md R112, R125). -/
structure ReadyAt (s : State) (i : Nat) (t : Bool) : Prop where
  cfg_wf : s.cfg.wf = true
  len : s.slots.length = s.cfg.capacity
  phase : s.cphase = .pass i t
  lt : i < s.cfg.capacity
  ready : (slotGet s i).state = .readyToDecode

/-- The state after a slot step that decodes slot `i` into the derived fields `d` (42_decoder.md R122, R123, R125): `state`
is Validated if the predecessor confirms and Decoded otherwise, the cursor advances, and nothing else changes. -/
def afterDecode (s : State) (i : Nat) (t : Bool) (raw : RawBits) (d : Derived) : State :=
  { s with
    slots := s.slots.set i
      { slotGet s i with derived := d, state := if confirmed s i raw then .validated else .decoded }
    cphase := .pass (i + 1) t
    label := some (.slot (if confirmed s i raw then .validated else .decoded)) }

/-- The state after a slot step whose decode of slot `i` fails (42_decoder.md R117, R125). -/
def afterInvalid (s : State) (i : Nat) (t : Bool) (d : Derived) : State :=
  { s with
    slots := s.slots.set i { slotGet s i with derived := d, state := .invalid }
    cphase := .pass (i + 1) t
    label := some (.slot .invalid) }

/-- The state after a slot step on a slot that is not ReadyToDecode (42_decoder.md R112, R125). -/
def afterSkip (s : State) (i : Nat) (t : Bool) : State :=
  { s with cphase := .pass (i + 1) t, label := some (.slot .skip) }

/-- One slot step as 42_decoder.md R125 writes it, for any raw bits and kind, without the classes of opcode_table.json. -/
def slotStepSpec (s : State) (i : Nat) (t : Bool) : State :=
  let r := slotGet s i
  if r.state = .readyToDecode then
    if decodeFails r.kind r.raw then afterInvalid s i t (derivedOf s.cfg r.kind r.raw)
    else afterDecode s i t r.raw (derivedOf s.cfg r.kind r.raw)
  else afterSkip s i t

/-- The base-class rows of opcode_table.json for given raw bits (30_encoding.md R78). -/
def baseRows (raw : RawBits) : List Instr :=
  [.mag raw, .magBad raw, .locStop raw, .locDirChg raw, .locSpeed2 raw, .locSpeed3 raw, .locSpeed4 raw, .locSpeed5 raw,
   .locSpeed6 raw, .locSpeed7 raw, .locSpeed8 raw, .locSpeed9 raw, .locSpeed10 raw, .locSpeed11 raw, .locSpeed12 raw,
   .locSpeed13 raw, .locSpeed14 raw, .locSpeed15 raw]

/-- The extended sub-class rows of opcode_table.json for given raw bits (30_encoding.md R78). -/
def extRows (raw : RawBits) : List Instr :=
  [.extNop01 raw, .extFunc2 raw, .extFwd raw, .extFunc3 raw, .extNop89 raw, .extBwd raw, .extFunc1 raw, .extFunc4 raw]

/-- `n` turns of the CONSUMER in a row. -/
def consumerRun : Nat → State → Host.Outcome State Fault Refusal
  | 0, s => .next s
  | n + 1, s =>
    match agentStep .consumer s with
    | .next t => consumerRun n t
    | .fault r => .fault r
    | .refused r => .refused r

/-- A state with a list of frames accepted one after the other (40_sampler.md R94). -/
def enqueueAll (s : State) : List Frame → State
  | [] => s
  | f :: fs => enqueueAll (enqueue f s) fs

/-- The block is quiescent (60_exceptions.md R164). -/
def quiescent (s : State) : Bool := decide (s.cphase = .idle)

end Sys2Proof.Machine
end

