-- ==== Sys2Proof/Certificates/Slice0/Obligations.lean ====
section
/-! DEFINITION. The statements for the provers, one definition each. A docstring names the rule a statement formalises, and where
a clause rests on a choice or an inference, the log entry or the spec's sentence that says so. -/

open Sys2Proof Sys2Proof.Machine

/-! ### Encoding -/

/-- A few words written out from the encoding tables of 30_encoding.md R63, R70, R73 and R76 decode to what they stand for. The
word 0x0C800 has two class names, of which the decoder answers the sub-class (log 5). -/
def Obligations.WordsOfTheTablesDecode : Prop :=
  decodeCmd 32 0x000003E81 = .ok (.edge 1000) ∧ decodeCmd 32 0xFFFFFFFF1 = .ok (.edge 4294967295) ∧
  decodeCmd 32 0x000000002 = .ok .decodePass ∧ decodeCmd 32 0x000000003 = .ok .poll ∧
  decodeCmd 32 0x000000054 = .ok (.slotAt 5) ∧ decodeCmd 32 0x000000005 = .ok .writePtr ∧
  decodeCmd 32 0x000000006 = .ok .reset ∧ decodeCmd 32 0x000000000 = .ok (.reserved0x0 0) ∧
  decodeCmd 32 0x00000000F = .ok (.reserved0x8To0xF 7 0) ∧
  decodeCmd 32 0x000000012 = .error (.nonzeroOperand 2 1) ∧
  decodeDW 0x7CC03 = .ok (.mag 0x3CC03) ∧ decodeDW 0x40100 = .ok (.magBad 0x00100) ∧
  decodeDW 0x0CC00 = .ok (.locSpeed5 0x0CC00) ∧ decodeDW 0x0C800 = .ok (.extBwd 0x0C800)

/-- Every well-formed request decodes from its own command word, with every operand (30_encoding.md R61, R63, R64, R65). -/
def Obligations.RequestsDecodeFromTheirWords : Prop :=
  ∀ (c : Config) (i : Instr), formatOf i = .cmd → i.wf c = true → decodeCmd c.tsWidth (encode i) = .ok i

/-- The other direction: a command word that decodes is the word of the request it decodes to, which is well formed. -/
def Obligations.DecodedRequestsEncodeToTheirWords : Prop :=
  ∀ (c : Config) (w : Nat) (i : Instr), decodeCmd c.tsWidth w = .ok i →
    encode i = w ∧ formatOf i = .cmd ∧ i.wf c = true

/-- A command word decodes to no request exactly when its opcode takes no operand and its operand is not zero
(30_encoding.md R66, R68). -/
def Obligations.OnlyNonzeroOperandsAreRejected : Prop :=
  ∀ (t : Nat) (w : Nat), w < 2 ^ (t + 4) →
    ((∃ e, decodeCmd t w = .error e) ↔ (w % 16 = 2 ∨ w % 16 = 3 ∨ w % 16 = 5 ∨ w % 16 = 6) ∧ w / 16 ≠ 0)

/-- The decode words and the classes agree (30_encoding.md R70 to R78). Every well-formed telegram class is one of the classes of
its own word, and the decoder answers a class of that word, with the same word. For every kind and raw bits, the decoder reads
both back from their word and answers one of their classes, and each of their classes is well formed and has that word. Which
of two class names the decoder answers is the model's choice (log 5). -/
def Obligations.TelegramClassesDecodeFromTheirWords : Prop :=
  (∀ (c : Config) (i : Instr), formatOf i = .decodeWord → i.wf c = true →
    encode i < 2 ^ 19 ∧ i ∈ classesOf (kindOfWord (encode i)) (BitVec.ofNat 18 (encode i)) ∧
    ∃ p ∈ classesOf (kindOfWord (encode i)) (BitVec.ofNat 18 (encode i)),
      decodeDW (encode i) = .ok p ∧ encode p = encode i) ∧
  ∀ (c : Config) (k : Kind) (raw : RawBits),
    kindOfWord (decodeWordOf k raw) = k ∧ BitVec.ofNat 18 (decodeWordOf k raw) = raw ∧
    decodeDW (decodeWordOf k raw) = .ok (decodeTelegram k raw) ∧ decodeTelegram k raw ∈ classesOf k raw ∧
    ∀ p ∈ classesOf k raw, formatOf p = .decodeWord ∧ p.wf c = true ∧ encode p = decodeWordOf k raw

/-- Exactly one base-class row of the table matches a decode word, and exactly one sub-class row matches a locomotive
decode word. The spec marks this as its own inference (30_encoding.md R78: "Every decode word falls in exactly one base
class"). -/
def Obligations.EveryTelegramHasOneBaseClass : Prop :=
  ∀ (k : Kind) (raw : RawBits),
    (baseRows raw).filter (fun i => rowMatches i k raw) = [baseClass k raw] ∧
    (extRows raw).filter (fun i => rowMatches i k raw) = (if k = .locomotive then [extClass raw] else [])

/-- The two class names of an extended locomotive word mean the same step in every state. Which name the decoder answers is the
model's choice (log 5), and this says that the choice has no effect. -/
def Obligations.BothNamesOfAWordMeanOneStep : Prop :=
  ∀ (raw : RawBits) (s : State), ext raw = true → exec (baseClass .locomotive raw) s = exec (extClass raw) s

/-- The byte image of `raw` (20_memory.md R48): bit `7 - j` of byte `b` is `RAW[8b + j]`, or 0 past `RAW[17]`, and byte 0 is the
address byte. -/
def Obligations.RawImageIsMostSignificantBitFirst : Prop :=
  ∀ (raw : RawBits),
    (∀ b < 3, ∀ j < 8, ((rawImage raw).getD b 0#8).getLsbD (7 - j) = (decide (8 * b + j ≤ 17) && rawBit raw (8 * b + j))) ∧
    ((rawImage raw).getD 0 0#8).toNat = addrByte raw

/-! ### Configuration, reset and refusals -/

/-- A configuration is well formed exactly when the conditions of 00_scope.md R15 hold. -/
def Obligations.WellFormedConfigurationConditions : Prop :=
  ∀ c : Config, c.wf = true ↔
    (1 ≤ c.capacity ∧ 1 ≤ c.tsWidth ∧ 1 ≤ c.ratio ∧ 1 ≤ c.sampleWidth ∧ c.gapThreshold < 2 ^ c.tsWidth ∧
      c.gapThreshold / c.ratio ≤ 2 ^ c.sampleWidth - 1 ∧ c.bandLo ≤ c.bandHi ∧ c.addrTable[0] = 80#8)

/-- Under a configuration that is not well formed every request and every class is refused: the mark is set and nothing else
changes but the trace label. That a refusal is a next state is the model's reading of 10_state.md R37 (log 4). -/
def Obligations.IllFormedConfigurationRefusesAll : Prop :=
  ∀ (i : Instr) (s : State), s.cfg.wf = false → exec i s = .next { s with refusedMark := true, label := none }

/-- The three reserved ranges are refused whatever their operand (30_encoding.md R67; log 4: a refusal is a next state with
the mark). -/
def Obligations.ReservedOpcodesAreRefused : Prop :=
  ∀ (s : State) (operand : Nat) (low : BitVec 3),
    exec (.reserved0x0 operand) s = .next { s with refusedMark := true, label := none } ∧
    exec (.reserved0x7 operand) s = .next { s with refusedMark := true, label := none } ∧
    exec (.reserved0x8To0xF low operand) s = .next { s with refusedMark := true, label := none }

/-- RESET (70_reset_and_hazards.md R165): opcode 0x6 with operand zero and no other; every register, slot and the cursor at its
reset value, the refusal mark unchanged, no response. The words waiting at the ports, the schedule and the responses already
given are outside the block and stay (log 9). -/
def Obligations.ResetSetsEveryRegister : Prop :=
  ∀ s : State, s.cfg.wf = true →
    (∀ w < 2 ^ (s.cfg.tsWidth + 4), w % 16 = 6 →
      decodeCmd s.cfg.tsWidth w = if w / 16 = 0 then .ok .reset else .error (.nonzeroOperand 6 (w / 16))) ∧
    ∃ t, exec .reset s = .next t ∧ t.cfg = s.cfg ∧
      t.lastTs = 0 ∧ t.syncTs = 0 ∧ t.synced = false ∧ t.count = 0 ∧ t.iv = List.replicate 35 0 ∧ t.wp = 0 ∧
      t.slots.length = s.cfg.capacity ∧
      (∀ i < s.cfg.capacity, slotGet t i =
        { state := if i = 0 then .capturing else .consumed, raw := 0#18, dur := 0, kind := .locomotive,
          derived := Derived.default }) ∧
      t.cphase = .idle ∧ t.refusedMark = s.refusedMark ∧ t.responses = s.responses ∧ t.edgeIn = s.edgeIn ∧
      t.consumerIn = s.consumerIn ∧ t.resetIn = s.resetIn ∧ t.schedule = s.schedule ∧ t.label = none

/-- The refusal mark (10_state.md R37) starts at 0 and no step clears it, RESET included. -/
def Obligations.RefusedMarkIsNeverCleared : Prop :=
  State.reset.refusedMark = false ∧
  ∀ s t : State, step s = .next t → s.refusedMark = true → t.refusedMark = true

/-- Nothing reads the refusal mark: two states that differ only in it take steps that differ only in it. It "is not hardware
state" (10_state.md R37). -/
def Obligations.RefusedMarkIsNeverRead : Prop :=
  ∀ (s t : State) (m : Bool), step s = .next t →
    ∃ m', step { s with refusedMark := m } = .next { t with refusedMark := m' }

/-! ### EDGE -/

/-- Every EDGE step computes the interval modulo `2 ^ TS_WIDTH` and sets `lastTs` (40_sampler.md R82). -/
def Obligations.EdgeTakesTheIntervalAndTheTimestamp : Prop :=
  ∀ (s : State) (ts : Nat), s.cfg.wf = true →
    (deltaOf ts s : Int) = ((ts : Int) - (s.lastTs : Int)) % ((2 ^ s.cfg.tsWidth : Nat) : Int) ∧
    ∃ t, exec (.edge ts) s = .next t ∧ t.lastTs = ts

/-- SYNC (40_sampler.md R83). -/
def Obligations.EdgeSyncStartsACapture : Prop :=
  ∀ (s : State) (ts : Nat), s.cfg.wf = true → s.synced = false → s.cfg.gapThreshold < deltaOf ts s →
    exec (.edge ts) s =
      .next { s with lastTs := ts, syncTs := ts, synced := true, count := 0, label := some (.edge .sync) }

/-- IGNORED (40_sampler.md R84): only `lastTs` changes, and the trace label. -/
def Obligations.EdgeIgnoredChangesOnlyLastTs : Prop :=
  ∀ (s : State) (ts : Nat), s.cfg.wf = true → s.synced = false → deltaOf ts s ≤ s.cfg.gapThreshold →
    exec (.edge ts) s = .next { s with lastTs := ts, label := some (.edge .ignored) }

/-- RESYNC (40_sampler.md R85): the capture restarts at this edge, and the slots are untouched. -/
def Obligations.EdgeResyncRestartsTheCapture : Prop :=
  ∀ (s : State) (ts : Nat), s.cfg.wf = true → s.synced = true → s.cfg.gapThreshold < deltaOf ts s →
    exec (.edge ts) s = .next { s with lastTs := ts, syncTs := ts, count := 0, label := some (.edge .resync) }

/-- SAMPLE (40_sampler.md R86): the interval is stored divided by RATIO, and with the 35th sample the frame is finalized in the
same step. -/
def Obligations.EdgeSampleStoresTheInterval : Prop :=
  ∀ (s : State) (ts : Nat), s.cfg.wf = true → s.synced = true → deltaOf ts s ≤ s.cfg.gapThreshold →
    (s.count + 1 < 35 → exec (.edge ts) s =
      .next { s with lastTs := ts, iv := s.iv.set s.count (deltaOf ts s / s.cfg.ratio), count := s.count + 1,
                     label := some (.edge .sample) }) ∧
    (s.count + 1 = 35 → exec (.edge ts) s =
      .next (finalize ts { s with lastTs := ts, iv := s.iv.set s.count (deltaOf ts s / s.cfg.ratio), count := 35 }))

/-- A stored sample fits in W bits; the spec marks this as its own inference (40_sampler.md R87: "A stored sample never exceeds
`2^W - 1`"). -/
def Obligations.StoredSamplesFit : Prop :=
  ∀ (s : State) (ts : Nat) (t : State), s.cfg.wf = true → (∀ x ∈ s.iv, x ≤ 2 ^ s.cfg.sampleWidth - 1) →
    exec (.edge ts) s = .next t → ∀ x ∈ t.iv, x ≤ 2 ^ s.cfg.sampleWidth - 1

/-- Bit extraction (40_sampler.md R92): `RAW[i]` is 1 exactly when twice sample `2i` exceeds the unit period. That this is the
same as the sample exceeding half of the unit period, rounded down, the spec marks as its own inference (R92: "so the result
does not depend on how "half" is rounded [derived: from this rule]"). -/
def Obligations.FrameBitsCompareWithHalfTheUnitPeriod : Prop :=
  ∀ (iv : List Nat) (i : Nat), i < 18 →
    rawBit (frameBits iv) i = decide (2 * iv.getD (2 * i) 0 > iv.getD 0 0 + iv.getD 1 0) ∧
    rawBit (frameBits iv) i = decide (iv.getD (2 * i) 0 > (iv.getD 0 0 + iv.getD 1 0) / 2)

/-- Interference rejection (40_sampler.md R93): with a pair sum in the band, bounds included, no slot and not `wp` changes;
with none, the frame is accepted. -/
def Obligations.EdgeRejectsFramesInTheBand : Prop :=
  ∀ (s : State) (ts : Nat) (iv : List Nat), s.cfg.wf = true → s.synced = true →
    deltaOf ts s ≤ s.cfg.gapThreshold → s.count = 34 → iv = s.iv.set 34 (deltaOf ts s / s.cfg.ratio) →
    ((∃ k ≤ 16, s.cfg.bandLo ≤ iv.getD (2 * k) 0 + iv.getD (2 * k + 1) 0 ∧
        iv.getD (2 * k) 0 + iv.getD (2 * k + 1) 0 ≤ s.cfg.bandHi) →
      exec (.edge ts) s =
        .next { s with lastTs := ts, iv := iv, count := 0, synced := false, label := some (.edge .reject) }) ∧
    ((¬∃ k ≤ 16, s.cfg.bandLo ≤ iv.getD (2 * k) 0 + iv.getD (2 * k + 1) 0 ∧
        iv.getD (2 * k) 0 + iv.getD (2 * k + 1) 0 ≤ s.cfg.bandHi) →
      ∃ t, exec (.edge ts) s = .next t ∧ t.label = some (.edge .accept))

/-- Acceptance (40_sampler.md R94), for any capacity: the write slot takes the frame, its derived fields stay, the write pointer
advances, and of the new write slot only the state changes, to Capturing. With one slot the two are the same slot. -/
def Obligations.EdgeAcceptFillsTheWriteSlot : Prop :=
  ∀ (s : State) (ts : Nat) (iv : List Nat) (filled : List Slot) (w : Nat), s.cfg.wf = true →
    s.slots.length = s.cfg.capacity → s.wp < s.cfg.capacity → s.synced = true →
    deltaOf ts s ≤ s.cfg.gapThreshold → s.count = 34 → iv = s.iv.set 34 (deltaOf ts s / s.cfg.ratio) →
    rejected s.cfg iv = false →
    filled = s.slots.set s.wp { slotGet s s.wp with
      raw := frameBits iv, dur := tsSub s.cfg.tsWidth ts s.syncTs
      kind := if iv.getD 0 0 + iv.getD 1 0 < s.cfg.magnetThreshold then .magnet else .locomotive
      state := .readyToDecode } →
    w = (s.wp + 1) % s.cfg.capacity →
    exec (.edge ts) s = .next { s with
      lastTs := ts, iv := iv, count := 0, synced := false, wp := w
      slots := filled.set w { filled.getD w (Slot.initial .consumed) with state := .capturing }
      label := some (.edge .accept) }

/-- Every finalization clears the counters (40_sampler.md R95), whether the frame is accepted or rejected, and the sampler then
needs a new interval above GAP_THRESHOLD to synchronize again. -/
def Obligations.FinalizationClearsTheCounters : Prop :=
  ∀ (s t : State) (ts : Nat), s.cfg.wf = true → exec (.edge ts) s = .next t →
    t.label = some (.edge .accept) ∨ t.label = some (.edge .reject) →
    t.count = 0 ∧ t.synced = false ∧
    ∀ next u, exec (.edge next) t = .next u → (u.synced = true ↔ t.cfg.gapThreshold < deltaOf next t)

/-- What the sampler writes in the queue (20_memory.md R55): capture fields and ReadyToDecode in the write slot, Capturing in
the new write slot, never a derived field and never another state. -/
def Obligations.SamplerWritesOnlyTheWriteSlotAndTheNext : Prop :=
  ∀ (s t : State) (ts : Nat) (j : Nat), s.slots.length = s.cfg.capacity → s.wp < s.cfg.capacity →
    exec (.edge ts) s = .next t →
    (slotGet t j).derived = (slotGet s j).derived ∧
    (j ≠ s.wp → (slotGet t j).raw = (slotGet s j).raw ∧ (slotGet t j).dur = (slotGet s j).dur ∧
      (slotGet t j).kind = (slotGet s j).kind) ∧
    ((slotGet t j).state = (slotGet s j).state ∨ (j = s.wp ∧ (slotGet t j).state = .readyToDecode) ∨
      (j = t.wp ∧ (slotGet t j).state = .capturing))

/-- The frame of EDGE outside the queue: the cursor, the responses, the refusal mark and the ports stay, so a pass it preempts
resumes where it was (60_exceptions.md R154). -/
def Obligations.EdgePreservesAPassInProgress : Prop :=
  ∀ (s t : State) (ts : Nat), s.cfg.wf = true → exec (.edge ts) s = .next t →
    t.cfg = s.cfg ∧ t.cphase = s.cphase ∧ t.responses = s.responses ∧ t.refusedMark = s.refusedMark ∧
    t.edgeIn = s.edgeIn ∧ t.consumerIn = s.consumerIn ∧ t.resetIn = s.resetIn ∧ t.schedule = s.schedule ∧
    t.slots.length = s.slots.length ∧ t.iv.length = s.iv.length

/-- Samples at and past `count` are never read: whichever agent moves, two states that differ only there take steps that differ
only there, past the new count. The spec marks this as its own inference (10_state.md R26: "An entry left over from an earlier
frame is never read"). -/
def Obligations.StaleSamplesAreNeverRead : Prop :=
  ∀ (s t : State) (iv : List Nat), s.iv.length = 35 → iv.length = 35 → s.count ≤ 34 →
    (∀ k < s.count, iv.getD k 0 = s.iv.getD k 0) → step s = .next t →
    t.iv.length = 35 ∧ t.count ≤ 34 ∧
    ∃ iv', step { s with iv := iv } = .next { t with iv := iv' } ∧ iv'.length = 35 ∧
      ∀ k < t.count, iv'.getD k 0 = t.iv.getD k 0

/-! ### The queue's observation requests -/

/-- SLOT_AT (41_queue.md R100): opcode 0x4 with any operand; it responds with the whole record of slot `idx mod N` and writes
nothing; it is issued only when the cursor is Idle, and waits otherwise (log 6). -/
def Obligations.SlotAtRespondsWithTheRecord : Prop :=
  ∀ (s : State) (idx : Nat), s.cfg.wf = true →
    (idx < 2 ^ s.cfg.tsWidth → decodeCmd s.cfg.tsWidth (idx * 16 + 0x4) = .ok (.slotAt idx)) ∧
    (s.cphase = .idle → exec (.slotAt idx) s =
      .next { s with responses := s.responses ++ [.slotRecord (slotGet s (idx % s.cfg.capacity))], label := none }) ∧
    (s.cphase ≠ .idle → exec (.slotAt idx) s = .next s)

/-- WRITE_PTR (41_queue.md R101): opcode 0x5 with operand zero; it responds with the write pointer and writes nothing. Where
the write pointer does not fit in `TS_WIDTH` bits the response is a free value of that width (log 8). -/
def Obligations.WritePtrRespondsWithTheWritePointer : Prop :=
  ∀ s : State, s.cfg.wf = true → s.cphase = .idle →
    ∃ v, exec .writePtr s = .next { s with responses := s.responses ++ [.writePtr v], label := none } ∧
      (s.wp < 2 ^ s.cfg.tsWidth → v = s.wp) ∧ v < 2 ^ s.cfg.tsWidth

/-! ### DECODE_PASS, POLL and the steps of a pass -/

/-- The issue steps of DECODE_PASS (42_decoder.md R110) and POLL (43_consumer.md R135) change the cursor only. -/
def Obligations.IssueStepsSetTheCursor : Prop :=
  ∀ s : State, s.cfg.wf = true → s.cphase = .idle →
    exec .decodePass s = .next { s with cphase := .pass 0 false, label := none } ∧
    exec .poll s = .next { s with cphase := .pass 0 true, label := none }

/-- While a pass is in progress a consumer request has no step (43_consumer.md R143). The spec says no more than that; that exec
of such a request answers the state as it is and that its word waits at its port are the model's form of the hold (log 6), and
that a consumer request's word at the EDGE or the RESET port waits there too is the model's choice (log 12). -/
def Obligations.ConsumerRequestsWaitForThePass : Prop :=
  (∀ (s : State) (i : Instr), s.cfg.wf = true → s.cphase ≠ .idle →
    i = .decodePass ∨ i = .poll ∨ i = .writePtr ∨ (∃ idx, i = .slotAt idx) → exec i s = .next s) ∧
  (∀ s t : State, s.cphase ≠ .idle → step s = .next t →
    t.consumerIn = s.consumerIn ∧
    (∀ w ws, s.edgeIn = w :: ws → isConsumerOp (opOf w) = true → t.edgeIn = s.edgeIn) ∧
    (∀ w ws, s.resetIn = w :: ws → isConsumerOp (opOf w) = true → t.resetIn = s.resetIn))

/-- A slot step skips a slot that is not ReadyToDecode (42_decoder.md R112): nothing in the slot array changes. -/
def Obligations.SlotStepSkipsOtherStates : Prop :=
  ∀ (s : State) (i : Nat) (t : Bool), s.cfg.wf = true → s.cphase = .pass i t → i < s.cfg.capacity →
    (slotGet s i).state ≠ .readyToDecode →
    passStep s = .next { s with cphase := .pass (i + 1) t, label := some (.slot .skip) }

/-- The pass end of DECODE_PASS (42_decoder.md R111). -/
def Obligations.PassEndRespondsDone : Prop :=
  ∀ s : State, s.cfg.wf = true → s.cphase = .pass s.cfg.capacity false →
    passStep s = .next { s with responses := s.responses ++ [.done], cphase := .idle, label := none }

/-- The select step of POLL (43_consumer.md R136, R138): the Validated slot with the smallest index is consumed and its snapshot
is the response; without one the response is NONE and nothing but the cursor changes. -/
def Obligations.SelectConsumesTheFirstValidatedSlot : Prop :=
  ∀ s : State, s.cfg.wf = true → s.slots.length = s.cfg.capacity → s.cphase = .pass s.cfg.capacity true →
    (∀ i < s.cfg.capacity, (slotGet s i).state = .validated → (∀ j < i, (slotGet s j).state ≠ .validated) →
      passStep s = .next { s with
        slots := s.slots.set i { slotGet s i with state := .consumed }
        responses := s.responses ++
          [.pollSome { raw := (slotGet s i).raw, dur := (slotGet s i).dur, kind := (slotGet s i).kind,
                       derived := (slotGet s i).derived }]
        cphase := .idle, label := some (.select .consumed) }) ∧
    ((∀ i < s.cfg.capacity, (slotGet s i).state ≠ .validated) →
      passStep s = .next { s with
        responses := s.responses ++ [.pollNone], cphase := .idle, label := some (.select .none) })

/-! ### Telegram classes -/

/-- MAG (42_decoder.md R116): where the slot's kind is magnet and its `RAW[8] = 0`, its class is MAG, and the slot gets its
sub-address and magnet state, with the locomotive and extended fields at their defaults. -/
def Obligations.MagnetTelegramDecodes : Prop :=
  ∀ (s : State) (i : Nat) (t : Bool) (raw : RawBits), ReadyAt s i t →
    (slotGet s i).kind = .magnet → (slotGet s i).raw = raw → rawBit raw 8 = false →
    decodeTelegram .magnet raw = .mag raw ∧
    exec (.mag raw) s = .next (afterDecode s i t raw { Derived.default with
      variant := if ext raw then .extended else .legacy
      address := addrLookup s.cfg (addrByte raw)
      subAddress := BitVec.ofNat 3 ((rawBit raw 10).toNat + 2 * (rawBit raw 12).toNat + 4 * (rawBit raw 14).toNat)
      magnetState := rawBit raw 16 })

/-- MAG_BAD (42_decoder.md R117): where the slot's kind is magnet and its `RAW[8] = 1`, its class is MAG_BAD, and the slot becomes
Invalid, with no duplicate check. That variant and address are still written the spec marks as its own inference (R117:
"`variant` and `address` keep the values steps 1 and 2 wrote [derived: from rule R125]"). -/
def Obligations.BadMagnetTelegramIsInvalid : Prop :=
  ∀ (s : State) (i : Nat) (t : Bool) (raw : RawBits), ReadyAt s i t →
    (slotGet s i).kind = .magnet → (slotGet s i).raw = raw → rawBit raw 8 = true →
    decodeTelegram .magnet raw = .magBad raw ∧
    exec (.magBad raw) s = .next (afterInvalid s i t { Derived.default with
      variant := if ext raw then .extended else .legacy
      address := addrLookup s.cfg (addrByte raw) })

/-- LOC_STOP, LOC_DIRCHG and LOC_SPEED_2..15 (42_decoder.md R118, R119): where the slot's kind is locomotive, its speed code selects
the class, and the class sets the function flag and exactly one speed field. -/
def Obligations.LocomotiveClassesSetTheirSpeedField : Prop :=
  ∀ (s : State) (i : Nat) (t : Bool) (raw : RawBits), ReadyAt s i t →
    (slotGet s i).kind = .locomotive → (slotGet s i).raw = raw →
    speedCode raw = (rawBit raw 10).toNat * 1 + (rawBit raw 12).toNat * 2 + (rawBit raw 14).toNat * 4 +
      (rawBit raw 16).toNat * 8 ∧
    (speedCode raw = 0 → baseClass .locomotive raw = .locStop raw ∧
      exec (.locStop raw) s = .next (afterDecode s i t raw { locDerived s.cfg raw with stop := true })) ∧
    (speedCode raw = 1 → baseClass .locomotive raw = .locDirChg raw ∧
      exec (.locDirChg raw) s = .next (afterDecode s i t raw { locDerived s.cfg raw with dirChange := true })) ∧
    ∀ n p, (n, p) ∈ [(2, Instr.locSpeed2 raw), (3, .locSpeed3 raw), (4, .locSpeed4 raw), (5, .locSpeed5 raw),
        (6, .locSpeed6 raw), (7, .locSpeed7 raw), (8, .locSpeed8 raw), (9, .locSpeed9 raw), (10, .locSpeed10 raw),
        (11, .locSpeed11 raw), (12, .locSpeed12 raw), (13, .locSpeed13 raw), (14, .locSpeed14 raw),
        (15, .locSpeed15 raw)] →
      speedCode raw = n → baseClass .locomotive raw = p ∧
        exec p s = .next (afterDecode s i t raw { locDerived s.cfg raw with speedStep := BitVec.ofNat 4 (n - 1) })

/-- The eight extended sub-classes (42_decoder.md R120, R121): where the slot's kind is locomotive and its raw bits are in the
extended variant, the extended code selects the sub-class and the fields it sets. The speed code is decoded as for legacy
telegrams. -/
def Obligations.ExtendedClassesSetTheirFields : Prop :=
  ∀ (s : State) (i : Nat) (t : Bool) (raw : RawBits), ReadyAt s i t →
    (slotGet s i).kind = .locomotive → (slotGet s i).raw = raw → ext raw = true →
    extCode raw = (rawBit raw 17).toNat * 1 + (rawBit raw 15).toNat * 2 + (rawBit raw 13).toNat * 4 +
      (rawBit raw 11).toNat * 8 ∧
    (∀ n f p, (n, f, p) ∈ [(2, ExtFunc.f2, Instr.extFunc2 raw), (6, .f3, .extFunc3 raw), (12, .f1, .extFunc1 raw),
        (14, .f4, .extFunc4 raw)] →
      extCode raw = n ∨ extCode raw = n + 1 →
      extClass raw = p ∧ exec p s = .next (afterDecode s i t raw
        { speedDerived s.cfg raw with extFuncIndex := f, extFuncOn := decide (extCode raw % 2 = 1) })) ∧
    (∀ n d p, (n, d, p) ∈ [(4, ExtDir.forward, Instr.extFwd raw), (10, .backward, .extBwd raw),
        (0, .none, .extNop01 raw), (8, .none, .extNop89 raw)] →
      extCode raw = n ∨ extCode raw = n + 1 →
      extClass raw = p ∧ exec p s = .next (afterDecode s i t raw { speedDerived s.cfg raw with extDir := d }))

/-- The fixed sMM2 map (30_encoding.md R76) as the table writes it, by `RAW[11] RAW[13] RAW[15]`, is what the code map of
42_decoder.md R120 gives. -/
def Obligations.ExtendedCodeMapIsTheTable : Prop :=
  ∀ (raw : RawBits) (d : Derived), d.extFuncIndex = .none → d.extFuncOn = false → d.extDir = .none →
    extMap raw d =
      { d with extFuncIndex := tableFunc raw, extFuncOn := decide (tableFunc raw ≠ .none) && rawBit raw 17,
               extDir := tableDir raw }

/-- Duplicate validation (42_decoder.md R123), for any capacity: a slot whose decode succeeds becomes Validated exactly when its
cyclic predecessor is Decoded and holds the same 18 bits, and otherwise Decoded; the predecessor is not changed. With one
slot the slot is its own predecessor, and has just become Decoded. -/
def Obligations.DuplicateOfADecodedPredecessorValidates : Prop :=
  ∀ (s : State) (i p : Nat) (t : Bool), ReadyAt s i t → p = (i + s.cfg.capacity - 1) % s.cfg.capacity →
    decodeFails (slotGet s i).kind (slotGet s i).raw = false →
    ∃ u, passStep s = .next u ∧
      ((slotGet u i).state = .validated ↔
        (p = i ∨ (slotGet s p).state = .decoded) ∧ (slotGet s p).raw = (slotGet s i).raw) ∧
      ((slotGet u i).state = .validated ∨ (slotGet u i).state = .decoded) ∧
      (p ≠ i → slotGet u p = slotGet s p)

/-- No slot step writes the capture fields (42_decoder.md R132), whether it decodes or skips. -/
def Obligations.SlotStepsKeepTheCaptureFields : Prop :=
  (∀ (i : Instr) (s t : State) (j : Nat), formatOf i = .decodeWord → exec i s = .next t →
    (slotGet t j).raw = (slotGet s j).raw ∧ (slotGet t j).dur = (slotGet s j).dur ∧
    (slotGet t j).kind = (slotGet s j).kind) ∧
  ∀ (s t : State) (i j : Nat) (b : Bool), s.cphase = .pass i b → i < s.cfg.capacity → passStep s = .next t →
    (slotGet t j).raw = (slotGet s j).raw ∧ (slotGet t j).dur = (slotGet s j).dur ∧
    (slotGet t j).kind = (slotGet s j).kind

/-- The frame of every instruction but EDGE and RESET: the sampler registers, the write pointer, the ports and every slot but
the one the cursor names are unchanged, and a Capturing slot is never written (20_memory.md R54, 41_queue.md R106). -/
def Obligations.DecoderAndConsumerFrame : Prop :=
  ∀ (i : Instr) (s t : State), (∀ ts, i ≠ .edge ts) → i ≠ .reset → exec i s = .next t →
    t.cfg = s.cfg ∧ t.lastTs = s.lastTs ∧ t.syncTs = s.syncTs ∧ t.synced = s.synced ∧ t.count = s.count ∧ t.iv = s.iv ∧
    t.wp = s.wp ∧ t.edgeIn = s.edgeIn ∧ t.consumerIn = s.consumerIn ∧ t.resetIn = s.resetIn ∧ t.schedule = s.schedule ∧
    t.slots.length = s.slots.length ∧
    (∀ j, (∀ b, s.cphase ≠ .pass j b) → slotGet t j = slotGet s j) ∧
    (∀ j, (slotGet s j).state = .capturing → slotGet t j = slotGet s j) ∧
    (formatOf i = .cmd → t.slots = s.slots) ∧ (formatOf i = .decodeWord → t.responses = s.responses)

/-- Whatever class name a telegram is run by, its step is the slot step that 42_decoder.md R125 writes for its raw bits and
kind. -/
def Obligations.ClassesRefineTheSlotStep : Prop :=
  ∀ (s : State) (i : Nat) (t : Bool) (p : Instr), ReadyAt s i t →
    p ∈ classesOf (slotGet s i).kind (slotGet s i).raw → exec p s = .next (slotStepSpec s i t)

/-! ### The step -/

/-- When the agent whose turn it is has a request word at its port that decodes to an instruction, the step is exec of that
instruction, with the turn and the word taken (20_memory.md R52). The ports and the schedule are the model's form of the
interleaving (log 1). That a request runs at whichever port it waits, whatever agent 20_memory.md R51 gives it to, is the
model's choice (log 12). -/
def Obligations.StepRunsTheRequestAtThePort : Prop :=
  ∀ (s : State) (a : Agent) (rest : List Agent) (w : Nat) (ws : List Nat) (i : Instr),
    nextTurn s s.schedule = some (a, rest) → ¬(a = .consumer ∧ s.cphase ≠ .idle) → portOf s a = w :: ws →
    held s w = false → decodeCmd s.cfg.tsWidth w = .ok i →
    step s = exec i (setPort { s with schedule := rest } a ws)

/-- When the CONSUMER's turn finds the pass at a ReadyToDecode slot, the step is exec of the telegram class the slot's kind and
raw bits decode to, with the turn taken. -/
def Obligations.StepRunsTheTelegramOfTheSlot : Prop :=
  ∀ (s : State) (rest : List Agent) (i : Nat) (t : Bool),
    nextTurn s s.schedule = some (.consumer, rest) → s.cphase = .pass i t → i < s.cfg.capacity →
    (slotGet s i).state = .readyToDecode →
    step s = exec (decodeTelegram (slotGet s i).kind (slotGet s i).raw) { s with schedule := rest }

/-- A command word that decodes to no request is refused (30_encoding.md R66, 60_exceptions.md R150): it is taken off its port,
the mark is set, and nothing else of the block changes (log 4). -/
def Obligations.StepRefusesANonzeroOperand : Prop :=
  ∀ (s : State) (a : Agent) (rest : List Agent) (w : Nat) (ws : List Nat),
    nextTurn s s.schedule = some (a, rest) → ¬(a = .consumer ∧ s.cphase ≠ .idle) → portOf s a = w :: ws →
    held s w = false → w % 16 = 2 ∨ w % 16 = 3 ∨ w % 16 = 5 ∨ w % 16 = 6 → w / 16 ≠ 0 →
    step s = .next { setPort { s with schedule := rest } a ws with refusedMark := true, label := none }

/-- Any agent that has a step may move next (20_memory.md R53, 60_exceptions.md R153): whichever the schedule names moves.
The schedule is the model's form of the interleaving (log 1). -/
def Obligations.AnyEnabledAgentMayMoveNext : Prop :=
  ∀ (s : State) (a : Agent) (rest : List Agent), enabled s a = true →
    step { s with schedule := a :: rest } = agentStep a { s with schedule := rest }

/-- The block is idle exactly when no agent has a step, and then it keeps all state (60_exceptions.md R161; log 7). -/
def Obligations.IdleBlockKeepsItsState : Prop :=
  ∀ s : State, (nextTurn s s.schedule = none ↔ ∀ a : Agent, enabled s a = false) ∧
    ((∀ a : Agent, enabled s a = false) → step s = .next s)

/-- The block never faults (00_scope.md R19) and raises no exception (60_exceptions.md R151). That no request is left without a
next state either is the model's choice: the spec gives a refused request and a held one no step of their own, and the model
answers a refusal with the mark set (log 4), a held request with the state as it is (log 6), and the step of an idle block with
the state as it is (log 7). -/
def Obligations.EveryStepHasANextState : Prop :=
  (∀ s : State, ∃ t, step s = .next t) ∧ (∀ (i : Instr) (s : State), ∃ t, exec i s = .next t)

/-- No later step changes a response already given (43_consumer.md R139): a step keeps the responses and adds at most one. The
list of responses is the model's form of the channel (log 9). -/
def Obligations.ResponsesOnlyGrow : Prop :=
  ∀ s t : State, step s = .next t → t.responses = s.responses ∨ ∃ r, t.responses = s.responses ++ [r]

/-! ### Invariants and whole-machine rules -/

/-- The reset state of every well-formed configuration meets the invariant. -/
def Obligations.ResetMeetsTheInvariant : Prop :=
  ∀ c : Config, c.wf = true → Machine.Inv (State.resetOf c)

/-- Every step keeps the queue invariant: exactly the write slot is Capturing (10_state.md R39). -/
def Obligations.StepKeepsTheQueueInvariant : Prop :=
  ∀ s t : State, QueueInv s → step s = .next t → QueueInv t

/-- Every step keeps the whole invariant of the block. -/
def Obligations.StepKeepsTheInvariant : Prop :=
  ∀ s t : State, Machine.Inv s → step s = .next t → Machine.Inv t

/-- The lifecycle state machine (10_state.md R45): a step changes the state of a slot by one of the listed transitions only, by the
agent and under the condition the table lists, or took a RESET, which sets every slot to its reset value. -/
def Obligations.OnlyTheListedTransitions : Prop :=
  ∀ s t : State, Machine.Inv s → step s = .next t →
    (∀ i < s.cfg.capacity, Transition s t i) ∨
    (TookReset s t ∧ ∀ i < s.cfg.capacity, slotGet t i = Slot.initial (if i = 0 then .capturing else .consumed))

/-- With a capacity of at most 2 no slot becomes Validated. The spec marks this as its own inference (42_decoder.md R129: "with
`N <= 2` no slot ever becomes Validated"). -/
def Obligations.SmallCapacityNeverValidates : Prop :=
  ∀ s t : State, QueueInv s → s.cfg.capacity ≤ 2 → NoValidated s → step s = .next t → NoValidated t

/-- Retention with no other step between: of the frames accepted in a row after a reset the newest N are still in their slots, and
those but the oldest of them are ReadyToDecode. The spec marks this as its own inference (41_queue.md R104: "[derived: from
rules R102, R103, 10_state.md rule R41 and 40_sampler.md rule R94]"). Frame `j` counts from 0. -/
def Obligations.NewestFramesAreRetained : Prop :=
  ∀ (c : Config) (fs : List Frame), c.wf = true →
    (enqueueAll (State.resetOf c) fs).wp = fs.length % c.capacity ∧
    ∀ j f, fs[j]? = some f → fs.length ≤ j + c.capacity →
      (slotGet (enqueueAll (State.resetOf c) fs) (j % c.capacity)).raw = f.raw ∧
      (slotGet (enqueueAll (State.resetOf c) fs) (j % c.capacity)).dur = f.dur ∧
      (slotGet (enqueueAll (State.resetOf c) fs) (j % c.capacity)).kind = f.kind ∧
      (fs.length < j + c.capacity →
        (slotGet (enqueueAll (State.resetOf c) fs) (j % c.capacity)).state = .readyToDecode)

/-- A whole pass of N slot steps in a row, with no other agent's step between, leaves no slot ReadyToDecode, so a second pass skips
every slot and changes nothing. The spec marks the idempotence as its own inference (42_decoder.md R126). What other agents'
steps between change is said by CursorMovesByTurnsAndLeavesNoSlotBehind. -/
def Obligations.PassLeavesNoSlotToDecode : Prop :=
  ∀ (s : State) (b : Bool), s.cfg.wf = true → s.slots.length = s.cfg.capacity → s.cphase = .pass 0 b →
    ∃ t, consumerRun s.cfg.capacity s = .next t ∧ t.cphase = .pass s.cfg.capacity b ∧
      (∀ r ∈ t.slots, r.state ≠ .readyToDecode) ∧
      ∃ l, consumerRun s.cfg.capacity { t with cphase := .pass 0 b } = .next { t with label := l }

/-- DECODE_PASS and POLL finish in N + 2 of the CONSUMER's own steps in a row, with one response and the cursor at Idle
(60_exceptions.md R164). R164 counts the CONSUMER's own steps with other agents' steps between; that those neither move the
cursor back nor respond, but for RESET, is said by CursorMovesByTurnsAndLeavesNoSlotBehind. -/
def Obligations.PassRequestsFinishInBoundedSteps : Prop :=
  ∀ (s : State) (w : Nat) (ws : List Nat), s.cfg.wf = true → s.cphase = .idle → s.consumerIn = w :: ws →
    w = 0x2 ∨ w = 0x3 →
    ∃ t r, consumerRun (s.cfg.capacity + 2) s = .next t ∧ t.cphase = .idle ∧ t.consumerIn = ws ∧
      t.responses = s.responses ++ [r] ∧ (w = 0x2 → r = .done) ∧ (w = 0x3 → r = .pollNone ∨ ∃ d, r = .pollSome d)

/-- Retention through every step (41_queue.md R104), whichever agent moves: the relation between a state and the list of frames
accepted since the last RESET holds of the reset state with no frame, an EDGE with outcome ACCEPT appends the frame it
finalizes, a RESET empties the list, and any other step keeps it. The spec marks this as its own inference (R104: "[derived:
from rules R102, R103, 10_state.md rule R41 and 40_sampler.md rule R94]"). -/
def Obligations.EveryStepRetainsTheNewestFrames : Prop :=
  (∀ c : Config, c.wf = true → Retains (State.resetOf c) []) ∧
  ∀ (s t : State) (fs : List Frame), Machine.Inv s → Retains s fs → step s = .next t →
    (TookReset s t → Retains t []) ∧
    (∀ ts, AcceptedEdge s t ts → Retains t (fs ++ [acceptedFrame s ts])) ∧
    (¬TookReset s t → (∀ ts, ¬AcceptedEdge s t ts) → Retains t fs)

/-- The pass cursor through every step (20_memory.md R53, 42_decoder.md R110 to R112, 43_consumer.md R135, R136, 60_exceptions.md
R154, R164): each turn of the CONSUMER moves a pass on by one slot step and then ends it with one response, no EDGE moves it, and
only RESET abandons it. So a pass takes as many of the CONSUMER's own turns whatever steps fall between, and a slot it has left
behind is ReadyToDecode only if a frame was accepted into it since. That a turn is found in the schedule is log 1, and that a
refusal is a step that leaves the cursor is log 4. -/
def Obligations.CursorMovesByTurnsAndLeavesNoSlotBehind : Prop :=
  ∀ (s t : State), Machine.Inv s → step s = .next t →
    CursorMove s t ∧
    ∀ fresh, PassClean s fresh →
      (∀ ts, AcceptedEdge s t ts → PassClean t (s.wp :: fresh)) ∧
      ((∀ ts, ¬AcceptedEdge s t ts) → PassClean t fresh)
end

