-- ==== Sys2Proof/Laws/Operands.lean ====
section
/-! SUPPORT. The small lemmas of the operand forms: bounds of the telegram codes, the modular subtraction, the packing of a
list of bits, and indices modulo N. -/

namespace Sys2Proof.Machine

theorem rawNat_le (raw : RawBits) (i : Nat) : rawNat raw i ≤ 1 := by
  unfold rawNat
  cases rawBit raw i <;> decide

theorem speedCode_lt (raw : RawBits) : speedCode raw < 16 := by
  have h10 := rawNat_le raw 10
  have h12 := rawNat_le raw 12
  have h14 := rawNat_le raw 14
  have h16 := rawNat_le raw 16
  unfold speedCode
  omega

theorem extCode_lt (raw : RawBits) : extCode raw < 16 := by
  have h11 := rawNat_le raw 11
  have h13 := rawNat_le raw 13
  have h15 := rawNat_le raw 15
  have h17 := rawNat_le raw 17
  unfold extCode
  omega

theorem addrByte_lt (raw : RawBits) : addrByte raw < 256 := by
  have h0 := rawNat_le raw 0
  have h1 := rawNat_le raw 1
  have h2 := rawNat_le raw 2
  have h3 := rawNat_le raw 3
  have h4 := rawNat_le raw 4
  have h5 := rawNat_le raw 5
  have h6 := rawNat_le raw 6
  have h7 := rawNat_le raw 7
  unfold addrByte
  omega

theorem tsSub_lt (t a b : Nat) : tsSub t a b < 2 ^ t := Nat.mod_lt _ (Nat.two_pow_pos t)

theorem nextIndex_lt {n : Nat} (i : Nat) (h : 0 < n) : nextIndex n i < n := Nat.mod_lt _ h

theorem prevIndex_lt {n : Nat} (i : Nat) (h : 0 < n) : prevIndex n i < n := Nat.mod_lt _ h

theorem slotIndex_lt {n : Nat} (i : Nat) (h : 0 < n) : slotIndex n i < n := Nat.mod_lt _ h

/-- With at least two slots, a slot is not its own predecessor. -/
theorem prevIndex_ne {n i : Nat} (h : 2 ≤ n) (hi : i < n) : prevIndex n i ≠ i := by
  unfold prevIndex
  intro heq
  rcases Nat.eq_zero_or_pos i with h0 | h0
  · subst h0
    rw [Nat.mod_eq_of_lt (by omega)] at heq
    omega
  · rw [show i + n - 1 = (i - 1) + n by omega, Nat.add_mod_right, Nat.mod_eq_of_lt (by omega)] at heq
    omega

/-- With at least two slots, the write pointer's advance moves it. -/
theorem nextIndex_ne {n i : Nat} (h : 2 ≤ n) (hi : i < n) : nextIndex n i ≠ i := by
  unfold nextIndex
  intro heq
  rcases Nat.lt_or_ge (i + 1) n with h1 | h1
  · rw [Nat.mod_eq_of_lt h1] at heq
    omega
  · rw [show i + 1 = n by omega, Nat.mod_self] at heq
    omega

theorem packNat_testBit (bits : List Bool) (i : Nat) : (packNat bits).testBit i = bits.getD i false := by
  induction bits generalizing i with
  | nil => simp [packNat]
  | cons b bs ih =>
    cases i with
    | zero => cases b <;> simp [packNat, Nat.testBit_zero]
    | succ k =>
      rw [packNat, Nat.testBit_succ, show (b.toNat + 2 * packNat bs) / 2 = packNat bs by
        cases b <;> simp
        omega, ih]
      simp

/-- Bit `RAW[i]` of a packed list is its entry `i`. -/
theorem packBits_getLsbD (bits : List Bool) (i : Nat) (h : i < 18) :
    (packBits bits).getLsbD i = bits.getD i false := by
  rw [packBits, BitVec.getLsbD_ofNat, packNat_testBit]
  simp [h]

end Sys2Proof.Machine
end

