-- ==== Sys2Proof/Laws/State.lean ====
section
/-! SUPPORT. One lemma per field of State for every operation that updates a state: the field it writes has the value it
writes, and every other field is unchanged. All hold by rfl and are simp lemmas, so that no later proof unfolds an update. -/

namespace Sys2Proof.Machine

@[simp] theorem setLabel_cfg (s : State) (l : Option Label) : (setLabel s l).cfg = s.cfg := rfl
@[simp] theorem setLabel_lastTs (s : State) (l : Option Label) : (setLabel s l).lastTs = s.lastTs := rfl
@[simp] theorem setLabel_syncTs (s : State) (l : Option Label) : (setLabel s l).syncTs = s.syncTs := rfl
@[simp] theorem setLabel_synced (s : State) (l : Option Label) : (setLabel s l).synced = s.synced := rfl
@[simp] theorem setLabel_count (s : State) (l : Option Label) : (setLabel s l).count = s.count := rfl
@[simp] theorem setLabel_iv (s : State) (l : Option Label) : (setLabel s l).iv = s.iv := rfl
@[simp] theorem setLabel_wp (s : State) (l : Option Label) : (setLabel s l).wp = s.wp := rfl
@[simp] theorem setLabel_slots (s : State) (l : Option Label) : (setLabel s l).slots = s.slots := rfl
@[simp] theorem setLabel_cphase (s : State) (l : Option Label) : (setLabel s l).cphase = s.cphase := rfl
@[simp] theorem setLabel_refusedMark (s : State) (l : Option Label) : (setLabel s l).refusedMark = s.refusedMark := rfl
@[simp] theorem setLabel_responses (s : State) (l : Option Label) : (setLabel s l).responses = s.responses := rfl
@[simp] theorem setLabel_edgeIn (s : State) (l : Option Label) : (setLabel s l).edgeIn = s.edgeIn := rfl
@[simp] theorem setLabel_consumerIn (s : State) (l : Option Label) : (setLabel s l).consumerIn = s.consumerIn := rfl
@[simp] theorem setLabel_resetIn (s : State) (l : Option Label) : (setLabel s l).resetIn = s.resetIn := rfl
@[simp] theorem setLabel_schedule (s : State) (l : Option Label) : (setLabel s l).schedule = s.schedule := rfl
@[simp] theorem setLabel_label (s : State) (l : Option Label) : (setLabel s l).label = l := rfl

@[simp] theorem setPhase_cfg (p : CPhase) (s : State) : (setPhase p s).cfg = s.cfg := rfl
@[simp] theorem setPhase_lastTs (p : CPhase) (s : State) : (setPhase p s).lastTs = s.lastTs := rfl
@[simp] theorem setPhase_syncTs (p : CPhase) (s : State) : (setPhase p s).syncTs = s.syncTs := rfl
@[simp] theorem setPhase_synced (p : CPhase) (s : State) : (setPhase p s).synced = s.synced := rfl
@[simp] theorem setPhase_count (p : CPhase) (s : State) : (setPhase p s).count = s.count := rfl
@[simp] theorem setPhase_iv (p : CPhase) (s : State) : (setPhase p s).iv = s.iv := rfl
@[simp] theorem setPhase_wp (p : CPhase) (s : State) : (setPhase p s).wp = s.wp := rfl
@[simp] theorem setPhase_slots (p : CPhase) (s : State) : (setPhase p s).slots = s.slots := rfl
@[simp] theorem setPhase_cphase (p : CPhase) (s : State) : (setPhase p s).cphase = p := rfl
@[simp] theorem setPhase_refusedMark (p : CPhase) (s : State) : (setPhase p s).refusedMark = s.refusedMark := rfl
@[simp] theorem setPhase_responses (p : CPhase) (s : State) : (setPhase p s).responses = s.responses := rfl
@[simp] theorem setPhase_edgeIn (p : CPhase) (s : State) : (setPhase p s).edgeIn = s.edgeIn := rfl
@[simp] theorem setPhase_consumerIn (p : CPhase) (s : State) : (setPhase p s).consumerIn = s.consumerIn := rfl
@[simp] theorem setPhase_resetIn (p : CPhase) (s : State) : (setPhase p s).resetIn = s.resetIn := rfl
@[simp] theorem setPhase_schedule (p : CPhase) (s : State) : (setPhase p s).schedule = s.schedule := rfl
@[simp] theorem setPhase_label (p : CPhase) (s : State) : (setPhase p s).label = s.label := rfl

@[simp] theorem respond_cfg (s : State) (r : Response) : (respond s r).cfg = s.cfg := rfl
@[simp] theorem respond_lastTs (s : State) (r : Response) : (respond s r).lastTs = s.lastTs := rfl
@[simp] theorem respond_syncTs (s : State) (r : Response) : (respond s r).syncTs = s.syncTs := rfl
@[simp] theorem respond_synced (s : State) (r : Response) : (respond s r).synced = s.synced := rfl
@[simp] theorem respond_count (s : State) (r : Response) : (respond s r).count = s.count := rfl
@[simp] theorem respond_iv (s : State) (r : Response) : (respond s r).iv = s.iv := rfl
@[simp] theorem respond_wp (s : State) (r : Response) : (respond s r).wp = s.wp := rfl
@[simp] theorem respond_slots (s : State) (r : Response) : (respond s r).slots = s.slots := rfl
@[simp] theorem respond_cphase (s : State) (r : Response) : (respond s r).cphase = s.cphase := rfl
@[simp] theorem respond_refusedMark (s : State) (r : Response) : (respond s r).refusedMark = s.refusedMark := rfl
@[simp] theorem respond_responses (s : State) (r : Response) : (respond s r).responses = s.responses ++ [r] := rfl
@[simp] theorem respond_edgeIn (s : State) (r : Response) : (respond s r).edgeIn = s.edgeIn := rfl
@[simp] theorem respond_consumerIn (s : State) (r : Response) : (respond s r).consumerIn = s.consumerIn := rfl
@[simp] theorem respond_resetIn (s : State) (r : Response) : (respond s r).resetIn = s.resetIn := rfl
@[simp] theorem respond_schedule (s : State) (r : Response) : (respond s r).schedule = s.schedule := rfl
@[simp] theorem respond_label (s : State) (r : Response) : (respond s r).label = s.label := rfl

@[simp] theorem refuse_cfg (s : State) : (refuse s).cfg = s.cfg := rfl
@[simp] theorem refuse_lastTs (s : State) : (refuse s).lastTs = s.lastTs := rfl
@[simp] theorem refuse_syncTs (s : State) : (refuse s).syncTs = s.syncTs := rfl
@[simp] theorem refuse_synced (s : State) : (refuse s).synced = s.synced := rfl
@[simp] theorem refuse_count (s : State) : (refuse s).count = s.count := rfl
@[simp] theorem refuse_iv (s : State) : (refuse s).iv = s.iv := rfl
@[simp] theorem refuse_wp (s : State) : (refuse s).wp = s.wp := rfl
@[simp] theorem refuse_slots (s : State) : (refuse s).slots = s.slots := rfl
@[simp] theorem refuse_cphase (s : State) : (refuse s).cphase = s.cphase := rfl
@[simp] theorem refuse_refusedMark (s : State) : (refuse s).refusedMark = true := rfl
@[simp] theorem refuse_responses (s : State) : (refuse s).responses = s.responses := rfl
@[simp] theorem refuse_edgeIn (s : State) : (refuse s).edgeIn = s.edgeIn := rfl
@[simp] theorem refuse_consumerIn (s : State) : (refuse s).consumerIn = s.consumerIn := rfl
@[simp] theorem refuse_resetIn (s : State) : (refuse s).resetIn = s.resetIn := rfl
@[simp] theorem refuse_schedule (s : State) : (refuse s).schedule = s.schedule := rfl
@[simp] theorem refuse_label (s : State) : (refuse s).label = none := rfl

@[simp] theorem slotSet_cfg (s : State) (i : Nat) (r : Slot) : (slotSet s i r).cfg = s.cfg := rfl
@[simp] theorem slotSet_lastTs (s : State) (i : Nat) (r : Slot) : (slotSet s i r).lastTs = s.lastTs := rfl
@[simp] theorem slotSet_syncTs (s : State) (i : Nat) (r : Slot) : (slotSet s i r).syncTs = s.syncTs := rfl
@[simp] theorem slotSet_synced (s : State) (i : Nat) (r : Slot) : (slotSet s i r).synced = s.synced := rfl
@[simp] theorem slotSet_count (s : State) (i : Nat) (r : Slot) : (slotSet s i r).count = s.count := rfl
@[simp] theorem slotSet_iv (s : State) (i : Nat) (r : Slot) : (slotSet s i r).iv = s.iv := rfl
@[simp] theorem slotSet_wp (s : State) (i : Nat) (r : Slot) : (slotSet s i r).wp = s.wp := rfl
@[simp] theorem slotSet_slots (s : State) (i : Nat) (r : Slot) : (slotSet s i r).slots = s.slots.set i r := rfl
@[simp] theorem slotSet_cphase (s : State) (i : Nat) (r : Slot) : (slotSet s i r).cphase = s.cphase := rfl
@[simp] theorem slotSet_refusedMark (s : State) (i : Nat) (r : Slot) : (slotSet s i r).refusedMark = s.refusedMark := rfl
@[simp] theorem slotSet_responses (s : State) (i : Nat) (r : Slot) : (slotSet s i r).responses = s.responses := rfl
@[simp] theorem slotSet_edgeIn (s : State) (i : Nat) (r : Slot) : (slotSet s i r).edgeIn = s.edgeIn := rfl
@[simp] theorem slotSet_consumerIn (s : State) (i : Nat) (r : Slot) : (slotSet s i r).consumerIn = s.consumerIn := rfl
@[simp] theorem slotSet_resetIn (s : State) (i : Nat) (r : Slot) : (slotSet s i r).resetIn = s.resetIn := rfl
@[simp] theorem slotSet_schedule (s : State) (i : Nat) (r : Slot) : (slotSet s i r).schedule = s.schedule := rfl
@[simp] theorem slotSet_label (s : State) (i : Nat) (r : Slot) : (slotSet s i r).label = s.label := rfl

@[simp] theorem storeSample_cfg (d : Nat) (s : State) : (storeSample d s).cfg = s.cfg := rfl
@[simp] theorem storeSample_lastTs (d : Nat) (s : State) : (storeSample d s).lastTs = s.lastTs := rfl
@[simp] theorem storeSample_syncTs (d : Nat) (s : State) : (storeSample d s).syncTs = s.syncTs := rfl
@[simp] theorem storeSample_synced (d : Nat) (s : State) : (storeSample d s).synced = s.synced := rfl
@[simp] theorem storeSample_count (d : Nat) (s : State) : (storeSample d s).count = s.count + 1 := rfl
@[simp] theorem storeSample_iv (d : Nat) (s : State) : (storeSample d s).iv = s.iv.set s.count (d / s.cfg.ratio) := rfl
@[simp] theorem storeSample_wp (d : Nat) (s : State) : (storeSample d s).wp = s.wp := rfl
@[simp] theorem storeSample_slots (d : Nat) (s : State) : (storeSample d s).slots = s.slots := rfl
@[simp] theorem storeSample_cphase (d : Nat) (s : State) : (storeSample d s).cphase = s.cphase := rfl
@[simp] theorem storeSample_refusedMark (d : Nat) (s : State) : (storeSample d s).refusedMark = s.refusedMark := rfl
@[simp] theorem storeSample_responses (d : Nat) (s : State) : (storeSample d s).responses = s.responses := rfl
@[simp] theorem storeSample_edgeIn (d : Nat) (s : State) : (storeSample d s).edgeIn = s.edgeIn := rfl
@[simp] theorem storeSample_consumerIn (d : Nat) (s : State) : (storeSample d s).consumerIn = s.consumerIn := rfl
@[simp] theorem storeSample_resetIn (d : Nat) (s : State) : (storeSample d s).resetIn = s.resetIn := rfl
@[simp] theorem storeSample_schedule (d : Nat) (s : State) : (storeSample d s).schedule = s.schedule := rfl
@[simp] theorem storeSample_label (d : Nat) (s : State) : (storeSample d s).label = s.label := rfl

@[simp] theorem endFrame_cfg (s : State) : (endFrame s).cfg = s.cfg := rfl
@[simp] theorem endFrame_lastTs (s : State) : (endFrame s).lastTs = s.lastTs := rfl
@[simp] theorem endFrame_syncTs (s : State) : (endFrame s).syncTs = s.syncTs := rfl
@[simp] theorem endFrame_synced (s : State) : (endFrame s).synced = false := rfl
@[simp] theorem endFrame_count (s : State) : (endFrame s).count = 0 := rfl
@[simp] theorem endFrame_iv (s : State) : (endFrame s).iv = s.iv := rfl
@[simp] theorem endFrame_wp (s : State) : (endFrame s).wp = s.wp := rfl
@[simp] theorem endFrame_slots (s : State) : (endFrame s).slots = s.slots := rfl
@[simp] theorem endFrame_cphase (s : State) : (endFrame s).cphase = s.cphase := rfl
@[simp] theorem endFrame_refusedMark (s : State) : (endFrame s).refusedMark = s.refusedMark := rfl
@[simp] theorem endFrame_responses (s : State) : (endFrame s).responses = s.responses := rfl
@[simp] theorem endFrame_edgeIn (s : State) : (endFrame s).edgeIn = s.edgeIn := rfl
@[simp] theorem endFrame_consumerIn (s : State) : (endFrame s).consumerIn = s.consumerIn := rfl
@[simp] theorem endFrame_resetIn (s : State) : (endFrame s).resetIn = s.resetIn := rfl
@[simp] theorem endFrame_schedule (s : State) : (endFrame s).schedule = s.schedule := rfl
@[simp] theorem endFrame_label (s : State) : (endFrame s).label = s.label := rfl

@[simp] theorem enqueue_cfg (f : Frame) (s : State) : (enqueue f s).cfg = s.cfg := rfl
@[simp] theorem enqueue_lastTs (f : Frame) (s : State) : (enqueue f s).lastTs = s.lastTs := rfl
@[simp] theorem enqueue_syncTs (f : Frame) (s : State) : (enqueue f s).syncTs = s.syncTs := rfl
@[simp] theorem enqueue_synced (f : Frame) (s : State) : (enqueue f s).synced = s.synced := rfl
@[simp] theorem enqueue_count (f : Frame) (s : State) : (enqueue f s).count = s.count := rfl
@[simp] theorem enqueue_iv (f : Frame) (s : State) : (enqueue f s).iv = s.iv := rfl
@[simp] theorem enqueue_wp (f : Frame) (s : State) : (enqueue f s).wp = nextIndex s.cfg.capacity s.wp := rfl
@[simp] theorem enqueue_cphase (f : Frame) (s : State) : (enqueue f s).cphase = s.cphase := rfl
@[simp] theorem enqueue_refusedMark (f : Frame) (s : State) : (enqueue f s).refusedMark = s.refusedMark := rfl
@[simp] theorem enqueue_responses (f : Frame) (s : State) : (enqueue f s).responses = s.responses := rfl
@[simp] theorem enqueue_edgeIn (f : Frame) (s : State) : (enqueue f s).edgeIn = s.edgeIn := rfl
@[simp] theorem enqueue_consumerIn (f : Frame) (s : State) : (enqueue f s).consumerIn = s.consumerIn := rfl
@[simp] theorem enqueue_resetIn (f : Frame) (s : State) : (enqueue f s).resetIn = s.resetIn := rfl
@[simp] theorem enqueue_schedule (f : Frame) (s : State) : (enqueue f s).schedule = s.schedule := rfl
@[simp] theorem enqueue_label (f : Frame) (s : State) : (enqueue f s).label = s.label := rfl

@[simp] theorem resetRegisters_cfg (s : State) : (resetRegisters s).cfg = s.cfg := rfl
@[simp] theorem resetRegisters_lastTs (s : State) : (resetRegisters s).lastTs = 0 := rfl
@[simp] theorem resetRegisters_syncTs (s : State) : (resetRegisters s).syncTs = 0 := rfl
@[simp] theorem resetRegisters_synced (s : State) : (resetRegisters s).synced = false := rfl
@[simp] theorem resetRegisters_count (s : State) : (resetRegisters s).count = 0 := rfl
@[simp] theorem resetRegisters_iv (s : State) : (resetRegisters s).iv = List.replicate 35 0 := rfl
@[simp] theorem resetRegisters_wp (s : State) : (resetRegisters s).wp = 0 := rfl
@[simp] theorem resetRegisters_slots (s : State) : (resetRegisters s).slots = initialSlots s.cfg.capacity := rfl
@[simp] theorem resetRegisters_cphase (s : State) : (resetRegisters s).cphase = .idle := rfl
@[simp] theorem resetRegisters_refusedMark (s : State) : (resetRegisters s).refusedMark = s.refusedMark := rfl
@[simp] theorem resetRegisters_responses (s : State) : (resetRegisters s).responses = s.responses := rfl
@[simp] theorem resetRegisters_edgeIn (s : State) : (resetRegisters s).edgeIn = s.edgeIn := rfl
@[simp] theorem resetRegisters_consumerIn (s : State) : (resetRegisters s).consumerIn = s.consumerIn := rfl
@[simp] theorem resetRegisters_resetIn (s : State) : (resetRegisters s).resetIn = s.resetIn := rfl
@[simp] theorem resetRegisters_schedule (s : State) : (resetRegisters s).schedule = s.schedule := rfl
@[simp] theorem resetRegisters_label (s : State) : (resetRegisters s).label = none := rfl

@[simp] theorem slotGet_setLabel (s : State) (l : Option Label) (i : Nat) : slotGet (setLabel s l) i = slotGet s i := rfl
@[simp] theorem slotGet_setPhase (p : CPhase) (s : State) (i : Nat) : slotGet (setPhase p s) i = slotGet s i := rfl
@[simp] theorem slotGet_respond (s : State) (r : Response) (i : Nat) : slotGet (respond s r) i = slotGet s i := rfl
@[simp] theorem slotGet_refuse (s : State) (i : Nat) : slotGet (refuse s) i = slotGet s i := rfl
@[simp] theorem slotGet_storeSample (d : Nat) (s : State) (i : Nat) : slotGet (storeSample d s) i = slotGet s i := rfl
@[simp] theorem slotGet_endFrame (s : State) (i : Nat) : slotGet (endFrame s) i = slotGet s i := rfl

/-- A port write changes the three ports only. -/
theorem setPort_eq (s : State) (a : Agent) (ws : List Nat) :
    setPort s a ws = { s with
      edgeIn := if a = .edge then ws else s.edgeIn
      consumerIn := if a = .consumer then ws else s.consumerIn
      resetIn := if a = .reset then ws else s.resetIn } := by
  cases a <;> rfl

@[simp] theorem setPort_cfg (s : State) (a : Agent) (ws : List Nat) : (setPort s a ws).cfg = s.cfg := by
  cases a <;> rfl
@[simp] theorem setPort_lastTs (s : State) (a : Agent) (ws : List Nat) : (setPort s a ws).lastTs = s.lastTs := by
  cases a <;> rfl
@[simp] theorem setPort_syncTs (s : State) (a : Agent) (ws : List Nat) : (setPort s a ws).syncTs = s.syncTs := by
  cases a <;> rfl
@[simp] theorem setPort_synced (s : State) (a : Agent) (ws : List Nat) : (setPort s a ws).synced = s.synced := by
  cases a <;> rfl
@[simp] theorem setPort_count (s : State) (a : Agent) (ws : List Nat) : (setPort s a ws).count = s.count := by
  cases a <;> rfl
@[simp] theorem setPort_iv (s : State) (a : Agent) (ws : List Nat) : (setPort s a ws).iv = s.iv := by
  cases a <;> rfl
@[simp] theorem setPort_wp (s : State) (a : Agent) (ws : List Nat) : (setPort s a ws).wp = s.wp := by
  cases a <;> rfl
@[simp] theorem setPort_slots (s : State) (a : Agent) (ws : List Nat) : (setPort s a ws).slots = s.slots := by
  cases a <;> rfl
@[simp] theorem setPort_cphase (s : State) (a : Agent) (ws : List Nat) : (setPort s a ws).cphase = s.cphase := by
  cases a <;> rfl
@[simp] theorem setPort_refusedMark (s : State) (a : Agent) (ws : List Nat) : (setPort s a ws).refusedMark = s.refusedMark := by
  cases a <;> rfl
@[simp] theorem setPort_responses (s : State) (a : Agent) (ws : List Nat) : (setPort s a ws).responses = s.responses := by
  cases a <;> rfl
@[simp] theorem setPort_schedule (s : State) (a : Agent) (ws : List Nat) : (setPort s a ws).schedule = s.schedule := by
  cases a <;> rfl
@[simp] theorem setPort_label (s : State) (a : Agent) (ws : List Nat) : (setPort s a ws).label = s.label := by
  cases a <;> rfl

@[simp] theorem slotGet_setPort (s : State) (a : Agent) (ws : List Nat) (i : Nat) :
    slotGet (setPort s a ws) i = slotGet s i := by
  cases a <;> rfl

end Sys2Proof.Machine
end

