-- ==== Sys2Proof/Laws/Ops.lean ====
section
/-! SUPPORT. What each shared operation does, once: reading a slot after a write, refusing, the agents' turns, and one inversion
lemma for the step, from which every invariant of the step follows. -/

namespace Sys2Proof.Machine

theorem slotGet_slotSet_same (s : State) {i : Nat} (r : Slot) (h : i < s.slots.length) :
    slotGet (slotSet s i r) i = r := by
  simp [slotGet, List.getD_eq_getElem?_getD, h]

theorem slotGet_slotSet_ne (s : State) {i j : Nat} (r : Slot) (h : i ≠ j) :
    slotGet (slotSet s i r) j = slotGet s j := by
  simp [slotGet, List.getD_eq_getElem?_getD, h]

theorem slotGet_mem (s : State) {i : Nat} (h : i < s.slots.length) : slotGet s i ∈ s.slots := by
  simp [slotGet, List.getD_eq_getElem?_getD, h]

/-- A guarded step answers a next state: its effect under a well-formed configuration, a refusal otherwise. -/
theorem guarded_next {s t u : State} (h : guarded s t = .next u) :
    (s.cfg.wf = true ∧ u = t) ∨ (s.cfg.wf = false ∧ u = refuse s) := by
  unfold guarded at h
  cases hw : s.cfg.wf <;> simp [hw] at h <;> simp [h]

theorem guarded_of_wf {s : State} (t : State) (h : s.cfg.wf = true) : guarded s t = .next t := by
  simp [guarded, h]

theorem guarded_of_not_wf {s : State} (t : State) (h : s.cfg.wf = false) : guarded s t = .next (refuse s) := by
  simp [guarded, h]

theorem whenIdle_of_idle {s : State} (t : State) (h : s.cphase = .idle) : whenIdle s t = t := by
  simp [whenIdle, h]

theorem whenIdle_of_pass {s : State} (t : State) (h : s.cphase ≠ .idle) : whenIdle s t = s := by
  simp [whenIdle, h]

/-- A port offers its oldest word, unless the word is held. -/
theorem offered_some {s : State} {a : Agent} {w : Nat} {ws : List Nat} (h : offered s a = some (w, ws)) :
    portOf s a = w :: ws ∧ held s w = false := by
  unfold offered at h
  split at h
  · cases h
  · rename_i w' ws' heq
    split at h
    · cases h
    · rename_i hh
      simp only [Option.some.injEq, Prod.mk.injEq] at h
      obtain ⟨rfl, rfl⟩ := h
      exact ⟨heq, by simpa using hh⟩

/-- The agent that moves has a step. -/
theorem nextTurn_enabled {s : State} {sched : List Agent} {a : Agent} {rest : List Agent}
    (h : nextTurn s sched = some (a, rest)) : enabled s a = true := by
  induction sched with
  | nil =>
    simp only [nextTurn, defaultTurn, Option.map_eq_some_iff] at h
    obtain ⟨b, hb, hab⟩ := h
    simp only [Prod.mk.injEq] at hab
    obtain ⟨rfl, _⟩ := hab
    split at hb
    · simp_all
    · split at hb
      · simp_all
      · split at hb <;> simp_all
  | cons c cs ih =>
    simp only [nextTurn] at h
    split at h
    · simp only [Option.some.injEq, Prod.mk.injEq] at h
      obtain ⟨rfl, _⟩ := h
      assumption
    · exact ih h

/-- Where the schedule's next agent has a step, it moves. -/
theorem nextTurn_cons {s : State} {a : Agent} (rest : List Agent) (h : enabled s a = true) :
    nextTurn s (a :: rest) = some (a, rest) := by
  simp [nextTurn, h]

/-- Everything one step can do: nothing, when no agent is enabled; a step of a pass in progress; or the request word an
agent's port offers, taken off the port and run. -/
theorem step_cases {s u : State} (h : step s = .next u) :
    (nextTurn s s.schedule = none ∧ u = s) ∨
    (∃ rest, nextTurn s s.schedule = some (.consumer, rest) ∧ s.cphase ≠ .idle ∧
      passStep { s with schedule := rest } = .next u) ∨
    (∃ a rest w ws, nextTurn s s.schedule = some (a, rest) ∧ ¬(a = .consumer ∧ s.cphase ≠ .idle) ∧
      portOf s a = w :: ws ∧ held s w = false ∧ runWord w (setPort { s with schedule := rest } a ws) = .next u) := by
  unfold step at h
  split at h
  · rename_i hn
    exact .inl ⟨hn, by simpa using h.symm⟩
  · rename_i a rest hn
    have hen := nextTurn_enabled hn
    unfold agentStep at h
    split at h
    · rename_i hc
      obtain ⟨rfl, hp⟩ := hc
      exact .inr (.inl ⟨rest, hn, by simpa [inPass] using hp, h⟩)
    · rename_i hc
      split at h
      · rename_i ho
        have ho' : offered s a = none := by
          rw [← ho]; cases a <;> rfl
        have hc' : ¬(a = .consumer ∧ inPass s = true) := hc
        simp [enabled, ho'] at hen
        exact absurd hen hc'
      · rename_i w ws ho
        obtain ⟨hp, hh⟩ := offered_some ho
        refine .inr (.inr ⟨a, rest, w, ws, hn, by simpa [inPass] using hc, ?_, hh, h⟩)
        rw [← hp]; cases a <;> rfl

/-- The decoder of command words answers a row of format CMD. -/
theorem formatOf_decodeCmd {t w : Nat} {i : Instr} (h : decodeCmd t w = .ok i) : formatOf i = .cmd := by
  unfold decodeCmd decodeOp zeroOperand at h
  repeat' split at h
  all_goals
    cases h <;> rfl

/-- A request word runs the request it decodes to, or is refused. -/
theorem runWord_cases {w : Nat} {s u : State} (h : runWord w s = .next u) :
    (∃ i, decodeCmd s.cfg.tsWidth w = .ok i ∧ exec i s = .next u) ∨
    (∃ e, decodeCmd s.cfg.tsWidth w = .error e ∧ u = refuse s) := by
  unfold runWord at h
  split at h
  · rename_i i hi
    exact .inl ⟨i, hi, h⟩
  · rename_i e he
    exact .inr ⟨e, he, by simpa using h.symm⟩

/-- Everything one step can do, by the request it took: nothing, when no agent is enabled; a step of a pass in progress; a
request that was taken off a port; or the refusal of a word that decodes to none. -/
theorem step_took {s u : State} (h : step s = .next u) :
    (nextTurn s s.schedule = none ∧ u = s) ∨
    (∃ rest, nextTurn s s.schedule = some (.consumer, rest) ∧ s.cphase ≠ .idle ∧
      passStep { s with schedule := rest } = .next u) ∨
    (∃ i, TookWord s u i) ∨
    (∃ a rest w ws e, nextTurn s s.schedule = some (a, rest) ∧ ¬(a = .consumer ∧ s.cphase ≠ .idle) ∧
      portOf s a = w :: ws ∧ decodeCmd s.cfg.tsWidth w = .error e ∧
      u = refuse (setPort { s with schedule := rest } a ws)) := by
  rcases step_cases h with h | h | ⟨a, rest, w, ws, hn, hc, hp, hh, h⟩
  · exact .inl h
  · exact .inr (.inl h)
  · rcases runWord_cases h with ⟨i, hi, h⟩ | ⟨e, he, rfl⟩
    · exact .inr (.inr (.inl ⟨i, a, rest, w, ws, hn, hc, hp, hh, by simpa using hi, h⟩))
    · exact .inr (.inr (.inr ⟨a, rest, w, ws, e, hn, hc, hp, by simpa using he, rfl⟩))

/-- A step takes one word, so it takes one request. -/
theorem TookWord.unique {s t u : State} {i j : Instr} (h : TookWord s t i) (h' : TookWord s u j) : i = j := by
  obtain ⟨a, rest, w, ws, hn, _, hp, _, hd, _⟩ := h
  obtain ⟨a', rest', w', ws', hn', _, hp', _, hd', _⟩ := h'
  rw [hn] at hn'
  simp only [Option.some.injEq, Prod.mk.injEq] at hn'
  obtain ⟨rfl, rfl⟩ := hn'
  rw [hp] at hp'
  simp only [List.cons.injEq] at hp'
  obtain ⟨rfl, rfl⟩ := hp'
  rw [hd] at hd'
  exact Except.ok.inj hd'

/-- In a pass the CONSUMER takes no request. -/
theorem TookWord.not_consumerTurn {s t : State} {i : Instr} (h : TookWord s t i) (hp : s.cphase ≠ .idle) :
    ¬ConsumerTurn s := by
  rintro ⟨rest, hn⟩
  obtain ⟨a, rest', w, ws, hn', hc, _⟩ := h
  rw [hn] at hn'
  simp only [Option.some.injEq, Prod.mk.injEq] at hn'
  exact hc ⟨hn'.1.symm, hp⟩

/-- A request that a step took is one of the nine rows of format CMD. -/
theorem TookWord.format_eq {s t : State} {i : Instr} (h : TookWord s t i) : formatOf i = .cmd := by
  obtain ⟨a, rest, w, ws, _, _, _, _, hd, _⟩ := h
  exact formatOf_decodeCmd hd

/-- The CONSUMER's step in a pass: the telegram of a ReadyToDecode slot, a skip, or the end of the pass. -/
theorem passStep_cases {s u : State} {i : Nat} {t : Bool} (hp : s.cphase = .pass i t) (h : passStep s = .next u) :
    (i < s.cfg.capacity ∧ (slotGet s i).state = .readyToDecode ∧
      exec (decodeTelegram (slotGet s i).kind (slotGet s i).raw) s = .next u) ∨
    (i < s.cfg.capacity ∧ (slotGet s i).state ≠ .readyToDecode ∧ passSkip s = .next u) ∨
    (s.cfg.capacity ≤ i ∧ guarded s (endPass t s) = .next u) := by
  unfold passStep at h
  simp only [hp] at h
  split at h
  · split at h
    · exact .inl ⟨‹_›, ‹_›, h⟩
    · exact .inr (.inl ⟨‹_›, ‹_›, h⟩)
  · exact .inr (.inr ⟨by omega, h⟩)

end Sys2Proof.Machine
end

