-- ==== Sys2Proof/Laws/Exec.lean ====
section
/-! SUPPORT. What exec can do, once for all instructions, and what each part of a slot step and of an EDGE step does. Invariants
of exec and of the step are proved by the cases of these lemmas. -/

namespace Sys2Proof.Machine

/-- The effect of a successful request or class on the state, by the shared operation its meaning is built from. -/
inductive Effect (i : Instr) (s u : State) : Prop where
  /-- The request was refused: a reserved opcode, or a configuration that is not well formed. -/
  | refused (h : u = refuse s)
  /-- A consumer request that waits: a pass is in progress. -/
  | waits (hi : formatOf i = .cmd) (hp : s.cphase ≠ .idle) (h : u = s)
  | edge (ts : Nat) (hi : i = .edge ts) (h : u = edgeStep ts s)
  | issue (p : CPhase) (hi : formatOf i = .cmd) (hp : p = .pass 0 false ∨ p = .pass 0 true) (h : u = setLabel (setPhase p s) none)
  | responds (r : Response) (hi : formatOf i = .cmd) (h : u = setLabel (respond s r) none)
  | reset (hi : i = .reset) (h : u = resetRegisters s)
  | decodes (d : Derived) (raw : RawBits) (hi : formatOf i = .decodeWord) (h : u = slotStep (finishDecoded d raw) s)
  | invalid (d : Derived) (hi : formatOf i = .decodeWord) (h : u = slotStep (finishInvalid d) s)

theorem whenIdle_effect {i : Instr} {s t u : State} (hi : formatOf i = .cmd) (h : guarded s (whenIdle s t) = .next u)
    (ht : Effect i s t) : Effect i s u := by
  rcases guarded_next h with ⟨_, rfl⟩ | ⟨_, rfl⟩
  · by_cases hp : s.cphase = .idle
    · rwa [whenIdle_of_idle t hp]
    · exact .waits hi hp (whenIdle_of_pass t hp)
  · exact .refused rfl

theorem decodes_effect {i : Instr} {d : Derived} {raw : RawBits} {s u : State} (hi : formatOf i = .decodeWord) (h : decodes d raw s = .next u) :
    Effect i s u := by
  rcases guarded_next h with ⟨_, rfl⟩ | ⟨_, rfl⟩
  · exact .decodes d raw hi rfl
  · exact .refused rfl

/-- Whatever exec answers is one of the effects above. -/
theorem exec_effect {i : Instr} {s u : State} (h : exec i s = .next u) : Effect i s u := by
  cases i with
  | edge ts =>
    rcases guarded_next h with ⟨_, rfl⟩ | ⟨_, rfl⟩
    · exact .edge ts rfl rfl
    · exact .refused rfl
  | decodePass => exact whenIdle_effect rfl h (.issue _ rfl (.inl rfl) rfl)
  | poll => exact whenIdle_effect rfl h (.issue _ rfl (.inr rfl) rfl)
  | slotAt idx => exact whenIdle_effect rfl h (.responds _ rfl rfl)
  | writePtr => exact whenIdle_effect rfl h (.responds _ rfl rfl)
  | reset =>
    rcases guarded_next h with ⟨_, rfl⟩ | ⟨_, rfl⟩
    · exact .reset rfl rfl
    · exact .refused rfl
  | reserved0x0 _ => exact .refused (by simpa [exec, execReserved0x0] using h.symm)
  | reserved0x7 _ => exact .refused (by simpa [exec, execReserved0x7] using h.symm)
  | reserved0x8To0xF _ _ => exact .refused (by simpa [exec, execReserved0x8To0xF] using h.symm)
  | magBad raw =>
    rcases guarded_next h with ⟨_, rfl⟩ | ⟨_, rfl⟩
    · exact .invalid _ rfl rfl
    · exact .refused rfl
  | mag _ | locStop _ | locDirChg _ | locSpeed2 _ | locSpeed3 _ | locSpeed4 _ | locSpeed5 _ | locSpeed6 _ | locSpeed7 _
  | locSpeed8 _ | locSpeed9 _ | locSpeed10 _ | locSpeed11 _ | locSpeed12 _ | locSpeed13 _ | locSpeed14 _ | locSpeed15 _
  | extNop01 _ | extFunc2 _ | extFwd _ | extFunc3 _ | extNop89 _ | extBwd _ | extFunc1 _ | extFunc4 _ =>
    exact decodes_effect rfl h

/-- The six outcomes of an EDGE step (40_sampler.md R96). -/
theorem edgeStep_cases (ts : Nat) (s : State) :
    (s.synced = false ∧ s.cfg.gapThreshold < deltaOf ts s ∧ edgeStep ts s = edgeSync ts { s with lastTs := ts }) ∨
    (s.synced = false ∧ deltaOf ts s ≤ s.cfg.gapThreshold ∧ edgeStep ts s = edgeIgnored { s with lastTs := ts }) ∨
    (s.synced = true ∧ s.cfg.gapThreshold < deltaOf ts s ∧ edgeStep ts s = edgeResync ts { s with lastTs := ts }) ∨
    (s.synced = true ∧ deltaOf ts s ≤ s.cfg.gapThreshold ∧
      edgeStep ts s = edgeSample ts (deltaOf ts s) { s with lastTs := ts }) := by
  unfold edgeStep
  cases hs : s.synced <;> rcases Nat.lt_or_ge s.cfg.gapThreshold (deltaOf ts s) with h | h <;>
    simp [h, Nat.not_lt.mpr h]

/-- A stored sample leaves the frame incomplete, or completes a frame that is rejected or accepted (40_sampler.md R86 to R95). -/
theorem edgeSample_cases (ts : Nat) (delta : Nat) (s : State) :
    (s.count + 1 < 35 ∧ edgeSample ts delta s = setLabel (storeSample delta s) (some (.edge .sample))) ∨
    (35 ≤ s.count + 1 ∧ rejected s.cfg (storeSample delta s).iv = true ∧
      edgeSample ts delta s = setLabel (endFrame (storeSample delta s)) (some (.edge .reject))) ∨
    (35 ≤ s.count + 1 ∧ rejected s.cfg (storeSample delta s).iv = false ∧
      edgeSample ts delta s = setLabel (endFrame (enqueue (frameOf s.cfg (storeSample delta s).iv ts s.syncTs)
        (storeSample delta s))) (some (.edge .accept))) := by
  rcases Nat.lt_or_ge (s.count + 1) 35 with h | h
  · exact .inl ⟨h, by simp [edgeSample, h]⟩
  · have hf : edgeSample ts delta s = finalize ts (storeSample delta s) := by
      simp [edgeSample, Nat.not_lt.mpr h]
    rw [hf]
    by_cases hr : rejected s.cfg (storeSample delta s).iv = true
    · exact .inr (.inl ⟨h, hr, if_pos hr⟩)
    · exact .inr (.inr ⟨h, by simpa using hr, if_neg hr⟩)

/-- Writing a slot twice keeps the last record. -/
theorem slotSet_slotSet (s : State) (i : Nat) (r r' : Slot) : slotSet (slotSet s i r) i r' = slotSet s i r' := by
  simp [slotSet, List.set_set]

/-- Whether the predecessor confirms is the same before and after slot `i` itself becomes Decoded. -/
theorem confirms_after_decoded {s : State} {i : Nat} (d : Derived) (raw : RawBits) (h : i < s.slots.length) :
    confirms (slotGet (slotSet s i (decodedSlot d .decoded (slotGet s i))) (prevIndex s.cfg.capacity i)) raw =
      confirmed s i raw := by
  unfold confirmed
  split
  · rename_i hp
    rw [hp, slotGet_slotSet_same s _ h]
    simp only [confirms, decodedSlot, decide_true, Bool.true_and]
    congr
  · rename_i hp
    rw [slotGet_slotSet_ne s _ (Ne.symm hp)]

/-- A decode that does not fail writes one record: Validated if the predecessor confirms, Decoded otherwise (42_decoder.md
R122, R123). -/
theorem finishDecoded_eq {s : State} {i : Nat} (d : Derived) (raw : RawBits) (h : i < s.slots.length) :
    finishDecoded d raw i s =
      setLabel (slotSet s i (decodedSlot d (if confirmed s i raw then .validated else .decoded) (slotGet s i)))
        (some (.slot (if confirmed s i raw then .validated else .decoded))) := by
  unfold finishDecoded
  simp only [confirms_after_decoded d raw h]
  split
  · rw [slotGet_slotSet_same s _ h, slotSet_slotSet]
    rfl
  · rfl

/-- A slot step on a ReadyToDecode slot that the pass has reached. -/
theorem slotStep_ready {s : State} {i : Nat} {t : Bool} (effect : Nat → State → State) (h : ReadyAt s i t) :
    slotStep effect s = setPhase (.pass (i + 1) t) (effect i s) := by
  simp [slotStep, h.phase, h.lt, h.ready]

/-- Every class that decodes, on a ReadyToDecode slot that the pass has reached. -/
theorem decodes_ready {s : State} {i : Nat} {t : Bool} (d : Derived) (raw : RawBits) (h : ReadyAt s i t) :
    decodes d raw s = .next (afterDecode s i t raw d) := by
  rw [decodes, guarded_of_wf _ h.cfg_wf, slotStep_ready _ h, finishDecoded_eq d raw (by rw [h.len]; exact h.lt)]
  rfl

/-- Everything a slot step can do (42_decoder.md R125). -/
theorem slotStep_cases (effect : Nat → State → State) (s : State) :
    slotStep effect s = s ∨
    (∃ i t, s.cphase = .pass i t ∧ i < s.cfg.capacity ∧ (slotGet s i).state = .readyToDecode ∧
      slotStep effect s = setPhase (.pass (i + 1) t) (effect i s)) ∨
    (∃ i t, s.cphase = .pass i t ∧ i < s.cfg.capacity ∧ (slotGet s i).state ≠ .readyToDecode ∧
      slotStep effect s = setPhase (.pass (i + 1) t) (skipSlot s)) := by
  unfold slotStep
  split
  · exact .inl rfl
  · rename_i i t hp
    split
    · split
      · exact .inr (.inl ⟨i, t, hp, ‹_›, ‹_›, by simp⟩)
      · exact .inr (.inr ⟨i, t, hp, ‹_›, ‹_›, by simp⟩)
    · exact .inl rfl

end Sys2Proof.Machine
end

