-- ==== Sys2Proof/Laws/PerInstr.lean ====
section
/-! SUPPORT. Statements made of every instruction, one lemma per constructor: the word of a well-formed instruction fits its
format, `TS_WIDTH + 4` bits for a request (30_encoding.md R61) and 19 bits for a telegram class (30_encoding.md R70). -/

namespace Sys2Proof.Laws.WordFits

open Sys2Proof Sys2Proof.Machine

/-- The width of an instruction's word under a configuration. -/
def width (c : Config) (i : Instr) : Nat :=
  match formatOf i with
  | .cmd => c.tsWidth + 4
  | .decodeWord => 19

/-- The word of a well-formed instruction fits its format. -/
def Statement (i : Instr) : Prop := ∀ c : Config, i.wf c = true → encode i < 2 ^ width c i

theorem four_bits_above (t : Nat) : 2 ^ (t + 4) = 2 ^ t * 16 := by rw [Nat.pow_add]

theorem decodeWordOf_lt (k : Kind) (raw : RawBits) : decodeWordOf k raw < 2 ^ 19 := by
  have h := raw.isLt
  cases k <;> simp only [decodeWordOf, kindNat] <;> omega

theorem small_word_lt (t w : Nat) (h : w < 16) : w < 2 ^ (t + 4) := by
  have h1 := Nat.two_pow_pos t
  rw [four_bits_above]
  omega

theorem operand_word_lt {t operand op : Nat} (h : operand < 2 ^ t) (ho : op < 16) : operand * 16 + op < 2 ^ (t + 4) := by
  rw [four_bits_above]
  omega

theorem edge (n : Nat) : Statement (.edge n) := fun _ h =>
  operand_word_lt (by simpa [Instr.wf] using h) (by decide)

theorem decodePass : Statement .decodePass := fun c _ => small_word_lt c.tsWidth _ (by decide)

theorem poll : Statement .poll := fun c _ => small_word_lt c.tsWidth _ (by decide)

theorem slotAt (n : Nat) : Statement (.slotAt n) := fun _ h =>
  operand_word_lt (by simpa [Instr.wf] using h) (by decide)

theorem writePtr : Statement .writePtr := fun c _ => small_word_lt c.tsWidth _ (by decide)

theorem reset : Statement .reset := fun c _ => small_word_lt c.tsWidth _ (by decide)

theorem reserved0x0 (n : Nat) : Statement (.reserved0x0 n) := fun _ h =>
  operand_word_lt (by simpa [Instr.wf] using h) (by decide)

theorem reserved0x7 (n : Nat) : Statement (.reserved0x7 n) := fun _ h =>
  operand_word_lt (by simpa [Instr.wf] using h) (by decide)

theorem reserved0x8To0xF (low : BitVec 3) (n : Nat) : Statement (.reserved0x8To0xF low n) := fun c h => by
  have hn : n < 2 ^ c.tsWidth := by simpa [Instr.wf] using h
  have hl := low.isLt
  have hw := operand_word_lt (op := 8 + low.toNat) hn (by omega)
  rw [← Nat.add_assoc] at hw
  exact hw

theorem mag (raw : RawBits) : Statement (.mag raw) := fun _ _ => decodeWordOf_lt _ raw

theorem magBad (raw : RawBits) : Statement (.magBad raw) := fun _ _ => decodeWordOf_lt _ raw

theorem locStop (raw : RawBits) : Statement (.locStop raw) := fun _ _ => decodeWordOf_lt _ raw

theorem locDirChg (raw : RawBits) : Statement (.locDirChg raw) := fun _ _ => decodeWordOf_lt _ raw

theorem locSpeed2 (raw : RawBits) : Statement (.locSpeed2 raw) := fun _ _ => decodeWordOf_lt _ raw

theorem locSpeed3 (raw : RawBits) : Statement (.locSpeed3 raw) := fun _ _ => decodeWordOf_lt _ raw

theorem locSpeed4 (raw : RawBits) : Statement (.locSpeed4 raw) := fun _ _ => decodeWordOf_lt _ raw

theorem locSpeed5 (raw : RawBits) : Statement (.locSpeed5 raw) := fun _ _ => decodeWordOf_lt _ raw

theorem locSpeed6 (raw : RawBits) : Statement (.locSpeed6 raw) := fun _ _ => decodeWordOf_lt _ raw

theorem locSpeed7 (raw : RawBits) : Statement (.locSpeed7 raw) := fun _ _ => decodeWordOf_lt _ raw

theorem locSpeed8 (raw : RawBits) : Statement (.locSpeed8 raw) := fun _ _ => decodeWordOf_lt _ raw

theorem locSpeed9 (raw : RawBits) : Statement (.locSpeed9 raw) := fun _ _ => decodeWordOf_lt _ raw

theorem locSpeed10 (raw : RawBits) : Statement (.locSpeed10 raw) := fun _ _ => decodeWordOf_lt _ raw

theorem locSpeed11 (raw : RawBits) : Statement (.locSpeed11 raw) := fun _ _ => decodeWordOf_lt _ raw

theorem locSpeed12 (raw : RawBits) : Statement (.locSpeed12 raw) := fun _ _ => decodeWordOf_lt _ raw

theorem locSpeed13 (raw : RawBits) : Statement (.locSpeed13 raw) := fun _ _ => decodeWordOf_lt _ raw

theorem locSpeed14 (raw : RawBits) : Statement (.locSpeed14 raw) := fun _ _ => decodeWordOf_lt _ raw

theorem locSpeed15 (raw : RawBits) : Statement (.locSpeed15 raw) := fun _ _ => decodeWordOf_lt _ raw

theorem extNop01 (raw : RawBits) : Statement (.extNop01 raw) := fun _ _ => decodeWordOf_lt _ raw

theorem extFunc2 (raw : RawBits) : Statement (.extFunc2 raw) := fun _ _ => decodeWordOf_lt _ raw

theorem extFwd (raw : RawBits) : Statement (.extFwd raw) := fun _ _ => decodeWordOf_lt _ raw

theorem extFunc3 (raw : RawBits) : Statement (.extFunc3 raw) := fun _ _ => decodeWordOf_lt _ raw

theorem extNop89 (raw : RawBits) : Statement (.extNop89 raw) := fun _ _ => decodeWordOf_lt _ raw

theorem extBwd (raw : RawBits) : Statement (.extBwd raw) := fun _ _ => decodeWordOf_lt _ raw

theorem extFunc1 (raw : RawBits) : Statement (.extFunc1 raw) := fun _ _ => decodeWordOf_lt _ raw

theorem extFunc4 (raw : RawBits) : Statement (.extFunc4 raw) := fun _ _ => decodeWordOf_lt _ raw

end Sys2Proof.Laws.WordFits
end

