-- ==== Sys2Proof/Laws/Queue.lean ====
section
/-! SUPPORT. The two stores: what each operation leaves in a slot, that every operation keeps the stores at their sizes
(20_memory.md R46), and what EDGE, the select step and RESET do to the queue. -/

namespace Sys2Proof.Machine

theorem slotGet_of_slots {s t : State} (h : s.slots = t.slots) (i : Nat) : slotGet s i = slotGet t i := by
  unfold slotGet
  rw [h]

/-- Reading a slot after one slot was written. -/
theorem slotGet_of_set {s u : State} {i : Nat} {r : Slot} (h : u.slots = s.slots.set i r) (hi : i < s.slots.length)
    (j : Nat) : slotGet u j = if j = i then r else slotGet s j := by
  rw [slotGet_of_slots (t := slotSet s i r) h]
  split
  · subst j
    exact slotGet_slotSet_same s r hi
  · exact slotGet_slotSet_ne s r (Ne.symm ‹_›)

/-- Every slot of the queue is read by its index. -/
theorem exists_slotGet {s : State} {r : Slot} (h : r ∈ s.slots) : ∃ i, i < s.slots.length ∧ slotGet s i = r := by
  obtain ⟨i, hi, e⟩ := List.mem_iff_getElem.mp h
  exact ⟨i, hi, by simp [slotGet, List.getD_eq_getElem?_getD, hi, e]⟩

/-- What an acceptance leaves in every slot, for any capacity (40_sampler.md R94, R97). -/
theorem slotGet_enqueue (f : Frame) {s : State} (h : s.wp < s.slots.length)
    (h' : nextIndex s.cfg.capacity s.wp < s.slots.length) (j : Nat) :
    slotGet (enqueue f s) j =
      if j = nextIndex s.cfg.capacity s.wp then
        toCapturing (if j = s.wp then fillSlot f (slotGet s s.wp) else slotGet s j)
      else if j = s.wp then fillSlot f (slotGet s s.wp) else slotGet s j := by
  have hs : (enqueue f s).slots = (slotSet s s.wp (fillSlot f (slotGet s s.wp))).slots.set
      (nextIndex s.cfg.capacity s.wp) (toCapturing (slotGet (slotSet s s.wp (fillSlot f (slotGet s s.wp)))
        (nextIndex s.cfg.capacity s.wp))) := rfl
  rw [slotGet_of_set hs (by simpa using h'), slotGet_of_set (u := slotSet s s.wp _) rfl h,
    slotGet_of_set (u := slotSet s s.wp _) rfl h]
  split
  · subst j
    rfl
  · rfl

theorem storesWf_iff (s : State) : storesWf s = true ↔ s.slots.length = s.cfg.capacity ∧ s.iv.length = 35 := by
  rw [storesWf, Bool.and_eq_true, decide_eq_true_eq, decide_eq_true_eq]

theorem storesWf_slotSet {s : State} (i : Nat) (r : Slot) (h : storesWf s = true) : storesWf (slotSet s i r) = true := by
  simpa [storesWf_iff] using (storesWf_iff s).1 h

theorem storesWf_storeSample {s : State} (delta : Nat) (h : storesWf s = true) :
    storesWf (storeSample delta s) = true := by
  simpa [storesWf_iff, storeSample] using (storesWf_iff s).1 h

theorem storesWf_enqueue {s : State} (f : Frame) (h : storesWf s = true) : storesWf (enqueue f s) = true := by
  simpa [storesWf_iff, enqueue] using (storesWf_iff s).1 h

theorem storesWf_resetOf (c : Config) : storesWf (State.resetOf c) = true := by
  simp [storesWf_iff, State.resetOf, initialSlots]

theorem storesWf_resetRegisters (s : State) : storesWf (resetRegisters s) = true := storesWf_resetOf s.cfg

/-- What an EDGE step leaves alone outside the sampler's registers and the queue (60_exceptions.md R154). -/
theorem edgeStep_frame (ts : Nat) (s : State) :
    (edgeStep ts s).cfg = s.cfg ∧ (edgeStep ts s).cphase = s.cphase ∧ (edgeStep ts s).responses = s.responses ∧
    (edgeStep ts s).refusedMark = s.refusedMark ∧ (edgeStep ts s).edgeIn = s.edgeIn ∧
    (edgeStep ts s).consumerIn = s.consumerIn ∧ (edgeStep ts s).resetIn = s.resetIn ∧
    (edgeStep ts s).schedule = s.schedule ∧ (edgeStep ts s).slots.length = s.slots.length ∧
    (edgeStep ts s).iv.length = s.iv.length := by
  rcases edgeStep_cases ts s with ⟨_, _, e⟩ | ⟨_, _, e⟩ | ⟨_, _, e⟩ | ⟨_, _, e⟩ <;> rw [e]
  iterate 3 exact ⟨rfl, rfl, rfl, rfl, rfl, rfl, rfl, rfl, rfl, rfl⟩
  rcases edgeSample_cases ts (deltaOf ts s) { s with lastTs := ts } with ⟨_, e⟩ | ⟨_, _, e⟩ | ⟨_, _, e⟩ <;> rw [e] <;>
    simp [storeSample, endFrame, enqueue]

/-- An EDGE step leaves the queue alone, or accepts the frame it finalizes into it (40_sampler.md R94). -/
theorem edgeStep_queue (ts : Nat) (s : State) :
    ((edgeStep ts s).slots = s.slots ∧ (edgeStep ts s).wp = s.wp ∧ (edgeStep ts s).label ≠ some (.edge .accept)) ∨
    ((edgeStep ts s).label = some (.edge .accept) ∧ (edgeStep ts s).wp = nextIndex s.cfg.capacity s.wp ∧
      (edgeStep ts s).slots = (enqueue (acceptedFrame s ts) s).slots) := by
  rcases edgeStep_cases ts s with ⟨_, _, e⟩ | ⟨_, _, e⟩ | ⟨_, _, e⟩ | ⟨_, _, e⟩ <;> rw [e]
  · exact .inl ⟨rfl, rfl, by simp [edgeSync]⟩
  · exact .inl ⟨rfl, rfl, by simp [edgeIgnored]⟩
  · exact .inl ⟨rfl, rfl, by simp [edgeResync]⟩
  · rcases edgeSample_cases ts (deltaOf ts s) { s with lastTs := ts } with ⟨_, e⟩ | ⟨_, _, e⟩ | ⟨_, _, e⟩ <;> rw [e]
    · exact .inl ⟨rfl, rfl, by simp⟩
    · exact .inl ⟨rfl, rfl, by simp⟩
    · exact .inr ⟨rfl, rfl, rfl⟩

/-- The select step finds the Validated slot with the smallest index (43_consumer.md R136). -/
theorem firstValidated_some {s : State} {i : Nat} (h : firstValidated s = some i) :
    i < s.slots.length ∧ (slotGet s i).state = .validated ∧ ∀ j < i, (slotGet s j).state ≠ .validated := by
  unfold firstValidated at h
  rw [List.findIdx?_eq_some_iff_getElem] at h
  obtain ⟨hi, h1, h2⟩ := h
  refine ⟨hi, by simpa [slotGet, List.getD_eq_getElem?_getD, hi] using h1, fun j hj => ?_⟩
  have hj' : j < s.slots.length := by omega
  simpa [slotGet, List.getD_eq_getElem?_getD, hj'] using h2 j hj

/-- What RESET leaves in every slot (10_state.md R41). -/
theorem slotGet_of_initial {s : State} {c i : Nat} (h : s.slots = initialSlots c) (hi : i < c) :
    slotGet s i = Slot.initial (if i = 0 then .capturing else .consumed) := by
  simp [slotGet, h, initialSlots, List.getD_eq_getElem?_getD, hi]

/-- The decoder answers a telegram class for every telegram. -/
theorem formatOf_decodeTelegram (k : Kind) (raw : RawBits) : formatOf (decodeTelegram k raw) = .decodeWord := by
  have h1 : formatOf (extClass raw) = .decodeWord := by
    unfold extClass
    split <;> rfl
  have h2 : ∀ n, formatOf (locClass n raw) = .decodeWord := by
    intro n
    unfold locClass
    split <;> rfl
  have h3 : formatOf (baseClass k raw) = .decodeWord := by
    unfold baseClass
    split
    · split <;> rfl
    · exact h2 _
  unfold decodeTelegram
  split <;> assumption

end Sys2Proof.Machine
end

