-- ==== Sys2Proof/Tests/Slice0.lean ====
section
/-! SUPPORT. Tests: words and single steps whose results are those of the spec's vectors (95_test_vectors.md) or written out
from the tables of 30_encoding.md, an ill-formed term for each check of WellFormed, and for every statement with hypotheses a
state and operands that meet all of them. -/

namespace Sys2Proof.Tests

open Sys2Proof Sys2Proof.Machine

/-! ### Helpers -/

/-- A telegram written as the spec writes it, `RAW[0]` first. -/
def raw (bits : List Nat) : RawBits := packBits (bits.map fun b => decide (b = 1))

/-- A slot record in a given lifecycle state, with default derived fields. -/
def slotOf (st : Lifecycle) (k : Kind) (r : RawBits) : Slot := { Slot.initial st with raw := r, kind := k }

/-- The state a step answers. -/
def ran (o : Host.Outcome State Fault Refusal) : State :=
  match o with
  | .next s => s
  | .fault _ => State.reset
  | .refused _ => State.reset

/-- The start of 95_test_vectors.md section 2.3: slot 1 holds a telegram, and the pass has reached it. -/
def decAt (k : Kind) (r : RawBits) : State :=
  { State.reset with
    slots := [Slot.initial .consumed, slotOf .readyToDecode k r, Slot.initial .capturing, Slot.initial .consumed]
    wp := 2
    cphase := .pass 1 false }

/-- What the slot step of class `f` leaves in slot 1: its state and its derived fields. -/
def decodesTo (k : Kind) (f : RawBits → Instr) (bits : List Nat) : Lifecycle × Derived :=
  let r := slotGet (ran (exec (f (raw bits)) (decAt k (raw bits)))) 1
  (r.state, r.derived)

/-- The telegram X of 95_test_vectors.md section 2.4. -/
def rawX : RawBits := raw [0, 0, 0, 0, 0, 0, 0, 0, 0, 0, 1, 1, 0, 0, 1, 1, 0, 0]

/-- The telegram Y of 95_test_vectors.md section 2.4. -/
def rawY : RawBits := raw [0, 0, 0, 0, 0, 0, 0, 0, 0, 0, 0, 0, 1, 1, 0, 0, 0, 0]

/-- The derived fields of X when decoded (V-DEC-11). -/
def derivedX : Derived := { Derived.default with address := 80#8, speedStep := 4#4 }

/-- Slots 0 and 1 as given, slot 2 Capturing, slot 3 Consumed, and a pass at slot 1 (95_test_vectors.md section 2.4). -/
def pairAt (r0 r1 : Slot) (p : CPhase) : State :=
  { State.reset with slots := [r0, r1, Slot.initial .capturing, Slot.initial .consumed], wp := 2, cphase := p }

/-- The sampler in a frame that started at 1000. -/
def syncedAt (c : Config) (count lastTs : Nat) (iv : List Nat) : State :=
  { State.resetOf c with synced := true, count := count, lastTs := lastTs, syncTs := 1000, iv := iv }

/-- The samples of 95_test_vectors.md section 2.2, LOC(B1), with pair 5 replaced; the 35th, 26, is not yet stored. -/
def samples (a b : Nat) : List Nat :=
  [26, 182, 26, 182, 26, 182, 26, 182, 26, 182, a, b, 26, 182, 26, 182, 26, 182, 26, 182, 182, 26, 182, 26, 26, 182, 26, 182] ++
  [182, 26, 182, 26, 26, 182, 0]

/-- REF with one slot (V-FRM-15). -/
def refN1 : Config := { Config.ref with capacity := 1 }

/-- What a test reads off an EDGE step: label, `lastTs`, `syncTs`, `synced`, `count`. -/
def edgeView (s : State) : Option Label × Nat × Nat × Bool × Nat := (s.label, s.lastTs, s.syncTs, s.synced, s.count)

/-! ### Encodings (95_test_vectors.md section 2.8) -/

/-- V-ENC-1 to V-ENC-9. -/
theorem test_request_words :
    decodeTableWord 40 0x000003E81 = some (.edge 1000) ∧ decodeTableWord 40 0xFFFFFFFF1 = some (.edge 4294967295) ∧
    decodeTableWord 40 0x000000001 = some (.edge 0) ∧ decodeTableWord 40 0x000000002 = some .decodePass ∧
    decodeTableWord 40 0x000000003 = some .poll ∧ decodeTableWord 40 0x000000004 = some (.slotAt 0) ∧
    decodeTableWord 40 0x000000054 = some (.slotAt 5) ∧ decodeTableWord 40 0x000000005 = some .writePtr ∧
    decodeTableWord 40 0x000000006 = some .reset := by decide

/-- V-ENC-10 to V-ENC-16. -/
theorem test_refused_words :
    decodeTableWord 40 0x000000000 = some (.reserved0x0 0) ∧ decodeTableWord 40 0x000000007 = some (.reserved0x7 0) ∧
    decodeTableWord 40 0x00000000F = some (.reserved0x8To0xF 7 0) ∧
    decodeCmd 32 0x000000012 = .error (.nonzeroOperand 2 1) ∧ decodeCmd 32 0x000000103 = .error (.nonzeroOperand 3 16) ∧
    decodeCmd 32 0x000000015 = .error (.nonzeroOperand 5 1) ∧
    decodeCmd 32 0x800000006 = .error (.nonzeroOperand 6 0x80000000) ∧
    decodeCmd 32 0x1000000001 = .error (.wordTooWide 0x1000000001) := by decide

/-- V-DW-1 to V-DW-5, and the packing of the raw bits (30_encoding.md R70). V-DW-3 carries EXT with sMM2 = 13, so the decoder
answers the second of its two names (log 5). -/
theorem test_decode_words :
    decodeTableWord 24 0x0CC00 = some (.locSpeed5 rawX) ∧
    decodeTableWord 24 0x7CC03 = some (.mag (raw [1, 1, 0, 0, 0, 0, 0, 0, 0, 0, 1, 1, 0, 0, 1, 1, 1, 1])) ∧
    decodeTableWord 24 0x23F80 = some (.extFunc1 (raw [0, 0, 0, 0, 0, 0, 0, 1, 1, 1, 1, 1, 1, 1, 0, 0, 0, 1])) ∧
    decodeTableWord 24 0x40100 = some (.magBad (raw [0, 0, 0, 0, 0, 0, 0, 0, 1, 0, 0, 0, 0, 0, 0, 0, 0, 0])) ∧
    decodeTableWord 24 0x00000 = some (.locStop 0) ∧
    decodeDW 0x80000 = .error (.decodeWordTooWide 0x80000) := by decide

/-- The word of V-DW-3 and V-DEC-22 is also a word of its base class, LOC_SPEED_3: its speed code is 3 (30_encoding.md R73, R78;
the name in V-DW-3's row differs, log 21). -/
theorem test_extended_word_has_two_names :
    classesOf .locomotive (BitVec.ofNat 18 0x23F80) =
      [.locSpeed3 (BitVec.ofNat 18 0x23F80), .extFunc1 (BitVec.ofNat 18 0x23F80)] := by decide

/-- The locomotive rows' own words: bits 10, 12, 14, 16 are the speed code, least significant first (30_encoding.md R73), with
each odd bit a copy of the even bit before it, so that EXT does not hold (R72). -/
theorem test_locomotive_words :
    (decodeTableWord 24 0x00000, decodeTableWord 24 0x00C00, decodeTableWord 24 0x03000) =
      (some (.locStop 0x00000), some (.locDirChg 0x00C00), some (.locSpeed2 0x03000)) ∧
    (decodeTableWord 24 0x03C00, decodeTableWord 24 0x0C000, decodeTableWord 24 0x0CC00) =
      (some (.locSpeed3 0x03C00), some (.locSpeed4 0x0C000), some (.locSpeed5 0x0CC00)) ∧
    (decodeTableWord 24 0x0F000, decodeTableWord 24 0x0FC00, decodeTableWord 24 0x30000) =
      (some (.locSpeed6 0x0F000), some (.locSpeed7 0x0FC00), some (.locSpeed8 0x30000)) ∧
    (decodeTableWord 24 0x30C00, decodeTableWord 24 0x33000, decodeTableWord 24 0x33C00) =
      (some (.locSpeed9 0x30C00), some (.locSpeed10 0x33000), some (.locSpeed11 0x33C00)) ∧
    (decodeTableWord 24 0x3C000, decodeTableWord 24 0x3CC00, decodeTableWord 24 0x3F000, decodeTableWord 24 0x3FC00) =
      (some (.locSpeed12 0x3C000), some (.locSpeed13 0x3CC00), some (.locSpeed14 0x3F000), some (.locSpeed15 0x3FC00)) := by
  decide

/-- Words of the eight sub-classes: bits 17, 15, 13, 11 are sMM2, least significant first (30_encoding.md R75, R76), with one
bit pair that differs (R72). -/
theorem test_extended_words :
    (decodeTableWord 24 0x20000, decodeTableWord 24 0x08000, decodeTableWord 24 0x02000) =
      (some (.extNop01 0x20000), some (.extFunc2 0x08000), some (.extFwd 0x02000)) ∧
    (decodeTableWord 24 0x0A000, decodeTableWord 24 0x00800, decodeTableWord 24 0x08800) =
      (some (.extFunc3 0x0A000), some (.extNop89 0x00800), some (.extBwd 0x08800)) ∧
    (decodeTableWord 24 0x02800, decodeTableWord 24 0x0A800) = (some (.extFunc1 0x02800), some (.extFunc4 0x0A800)) := by
  decide

/-- The lifecycle and label codes of 10_state.md R29 and 60_exceptions.md R145. -/
theorem test_codes :
    [Lifecycle.capturing, .readyToDecode, .decoded, .validated, .consumed, .invalid].map lifecycleCode = [0, 1, 2, 3, 4, 5] ∧
    [EdgeLabel.ignored, .sync, .sample, .resync, .accept, .reject].map (fun l => labelCode (.edge l)) = [0, 1, 2, 3, 4, 5] := by
  decide

/-- Program P1's first `tgm` line (95_test_vectors.md section 3): 37 edges, the sync edge and the last as listed there. -/
theorem test_tgm_expands :
    let line := "tgm 1000, 000000000011001100, 182, 26, 26, 182".toList
    let words := ((readLine line).getD []).flatMap (asmWords 32)
    (words.length, words.head?, words.getLast?) = (37, some 0x000003E81, some 0x000012881) := by decide

/-! ### Well-formedness -/

theorem test_ref_is_wf : Config.ref.wf = true ∧ Config.ref2.wf = true := by decide

/-- V-CFG-1 to V-CFG-6: one configuration for each broken condition, and the three conditions N, RATIO and W >= 1. -/
theorem test_ill_formed_configs :
    ({ Config.ref with sampleWidth := 8 } : Config).wf = false ∧
    ({ Config.ref with addrTable := Vector.replicate 256 81#8 } : Config).wf = false ∧
    ({ Config.ref with bandLo := 176, bandHi := 175 } : Config).wf = false ∧
    ({ Config.ref with capacity := 0 } : Config).wf = false ∧ ({ Config.ref with tsWidth := 8 } : Config).wf = false ∧
    ({ Config.ref2 with sampleWidth := 7 } : Config).wf = false ∧ ({ Config.ref with ratio := 0 } : Config).wf = false ∧
    ({ Config.ref with tsWidth := 0, gapThreshold := 0 } : Config).wf = false ∧
    ({ Config.ref with sampleWidth := 0, gapThreshold := 0 } : Config).wf = false := by decide

/-- One ill-formed instruction for each check of Instr.wf: an operand that does not fit, raw bits of another class, and an
extended class without EXT. -/
theorem test_ill_formed_instructions :
    (Instr.edge (2 ^ 32)).wf Config.ref = false ∧ (Instr.slotAt (2 ^ 32)).wf Config.ref = false ∧
    (Instr.reserved0x0 (2 ^ 32)).wf Config.ref = false ∧ (Instr.reserved0x7 (2 ^ 32)).wf Config.ref = false ∧
    (Instr.reserved0x8To0xF 0 (2 ^ 32)).wf Config.ref = false ∧ (Instr.mag 0x100).wf Config.ref = false ∧
    (Instr.magBad 0).wf Config.ref = false ∧ (Instr.locSpeed2 0).wf Config.ref = false ∧
    (Instr.extFwd 0).wf Config.ref = false ∧ (Instr.extNop01 0).wf Config.ref = false := by decide

/-! ### Single steps of the sampler (95_test_vectors.md sections 2.1, 2.2) -/

/-- V-EDGE-1 and V-EDGE-2: 500 is ignored, 501 starts a capture. -/
theorem test_edge_gap_threshold :
    edgeView (ran (exec (.edge 500) State.reset)) = (some (.edge .ignored), 500, 0, false, 0) ∧
    edgeView (ran (exec (.edge 501) State.reset)) = (some (.edge .sync), 501, 501, true, 0) := by decide

/-- V-EDGE-7: delta = 528 across the wrap. -/
theorem test_edge_wraps :
    edgeView (ran (exec (.edge 16) { State.reset with lastTs := 0xFFFFFE00 })) = (some (.edge .sync), 16, 16, true, 0) := by
  decide

/-- V-EDGE-13: a gap before the 35th sample drops the frame. -/
theorem test_edge_resync :
    edgeView (ran (exec (.edge 1600) (syncedAt Config.ref 34 1000 (samples 26 182)))) =
      (some (.edge .resync), 1600, 1600, true, 0) := by decide

/-- V-EDGE-9: with RATIO = 2, 183 is stored as 91. -/
theorem test_edge_sample_is_compressed :
    let s := ran (exec (.edge 1183) (syncedAt Config.ref2 0 1000 (List.replicate 35 0)))
    (s.label, s.count, s.iv.getD 0 0) = (some (.edge .sample), 1, 91) := by decide

/-- V-FRM-1: the 35th sample accepts the frame. -/
theorem test_edge_accept :
    let s := ran (exec (.edge 4562) (syncedAt Config.ref 34 4536 (samples 26 182)))
    (s.label, s.wp, s.count, s.synced) = (some (.edge .accept), 1, 0, false) ∧
    slotGet s 0 = { slotOf .readyToDecode .locomotive rawX with dur := 3562 } ∧
    (slotGet s 1).state = .capturing := by decide

/-- V-FRM-3 and V-FRM-5: a pair sum of 125 or 175 rejects the frame, and no slot changes. -/
theorem test_edge_reject :
    let s := ran (exec (.edge 4479) (syncedAt Config.ref 34 4453 (samples 26 99)))
    let u := ran (exec (.edge 4529) (syncedAt Config.ref 34 4503 (samples 26 149)))
    (s.label, s.wp, s.slots) = (some (.edge .reject), 0, State.reset.slots) ∧
    (u.label, u.wp, u.slots) = (some (.edge .reject), 0, State.reset.slots) := by decide

/-- V-FRM-4 and V-FRM-6: 124 and 176 are outside the band. -/
theorem test_edge_band_bounds :
    (ran (exec (.edge 4478) (syncedAt Config.ref 34 4452 (samples 26 98)))).label = some (.edge .accept) ∧
    (ran (exec (.edge 4530) (syncedAt Config.ref 34 4504 (samples 26 150)))).label = some (.edge .accept) := by decide

/-- V-FRM-15: with one slot the accepted frame's slot is Capturing again in the same step. -/
theorem test_edge_accept_one_slot :
    let s := ran (exec (.edge 4562) (syncedAt refN1 34 4536 (samples 26 182)))
    (s.wp, s.slots) = (0, [{ slotOf .capturing .locomotive rawX with dur := 3562 }]) := by decide

/-- V-FRM-2 and V-FRM-10: the kind and the strict comparison of the bit extraction (40_sampler.md R91, R92). -/
theorem test_frame_classification :
    kindOfPeriod Config.ref 149 = .magnet ∧ kindOfPeriod Config.ref 150 = .locomotive ∧
    frameBit ([26, 182] ++ [104, 104]) 1 = false ∧ frameBit ([26, 182] ++ [105, 103]) 1 = true := by decide

/-! ### Slot steps (95_test_vectors.md section 2.3) -/

/-- V-DEC-1 (95_test_vectors.md section 2.3). -/
theorem test_vdec1_mag :
    decodesTo .magnet .mag [0, 0, 0, 0, 0, 0, 0, 0, 0, 0, 0, 0, 0, 0, 0, 0, 0, 0] =
      (.decoded, { Derived.default with address := 80#8 }) := by decide

/-- V-DEC-4 (95_test_vectors.md section 2.3). -/
theorem test_vdec4_magBad :
    decodesTo .magnet .magBad [0, 0, 0, 0, 0, 0, 0, 0, 1, 0, 0, 0, 0, 0, 0, 0, 0, 0] =
      (.invalid, { Derived.default with address := 80#8 }) := by decide

/-- V-DEC-6 (95_test_vectors.md section 2.3). -/
theorem test_vdec6_locStop :
    decodesTo .locomotive .locStop [0, 0, 0, 0, 0, 0, 0, 0, 0, 0, 0, 0, 0, 0, 0, 0, 0, 0] =
      (.decoded, { Derived.default with address := 80#8, stop := true }) := by decide

/-- V-DEC-7 (95_test_vectors.md section 2.3). -/
theorem test_vdec7_locDirChg :
    decodesTo .locomotive .locDirChg [0, 0, 0, 0, 0, 0, 0, 0, 0, 0, 1, 1, 0, 0, 0, 0, 0, 0] =
      (.decoded, { Derived.default with address := 80#8, dirChange := true }) := by decide

/-- V-DEC-8 (95_test_vectors.md section 2.3). -/
theorem test_vdec8_locSpeed2 :
    decodesTo .locomotive .locSpeed2 [0, 0, 0, 0, 0, 0, 0, 0, 0, 0, 0, 0, 1, 1, 0, 0, 0, 0] =
      (.decoded, { Derived.default with address := 80#8, speedStep := 1#4 }) := by decide

/-- V-DEC-9 (95_test_vectors.md section 2.3). -/
theorem test_vdec9_locSpeed3 :
    decodesTo .locomotive .locSpeed3 [0, 0, 0, 0, 0, 0, 0, 0, 0, 0, 1, 1, 1, 1, 0, 0, 0, 0] =
      (.decoded, { Derived.default with address := 80#8, speedStep := 2#4 }) := by decide

/-- V-DEC-10 (95_test_vectors.md section 2.3). -/
theorem test_vdec10_locSpeed4 :
    decodesTo .locomotive .locSpeed4 [0, 0, 0, 0, 0, 0, 0, 0, 0, 0, 0, 0, 0, 0, 1, 1, 0, 0] =
      (.decoded, { Derived.default with address := 80#8, speedStep := 3#4 }) := by decide

/-- V-DEC-11 (95_test_vectors.md section 2.3). -/
theorem test_vdec11_locSpeed5 :
    decodesTo .locomotive .locSpeed5 [0, 0, 0, 0, 0, 0, 0, 0, 0, 0, 1, 1, 0, 0, 1, 1, 0, 0] =
      (.decoded, { Derived.default with address := 80#8, speedStep := 4#4 }) := by decide

/-- V-DEC-12 (95_test_vectors.md section 2.3). -/
theorem test_vdec12_locSpeed6 :
    decodesTo .locomotive .locSpeed6 [0, 0, 0, 0, 0, 0, 0, 0, 0, 0, 0, 0, 1, 1, 1, 1, 0, 0] =
      (.decoded, { Derived.default with address := 80#8, speedStep := 5#4 }) := by decide

/-- V-DEC-13 (95_test_vectors.md section 2.3). -/
theorem test_vdec13_locSpeed7 :
    decodesTo .locomotive .locSpeed7 [0, 0, 0, 0, 0, 0, 0, 0, 0, 0, 1, 1, 1, 1, 1, 1, 0, 0] =
      (.decoded, { Derived.default with address := 80#8, speedStep := 6#4 }) := by decide

/-- V-DEC-14 (95_test_vectors.md section 2.3). -/
theorem test_vdec14_locSpeed8 :
    decodesTo .locomotive .locSpeed8 [0, 0, 0, 0, 0, 0, 0, 0, 0, 0, 0, 0, 0, 0, 0, 0, 1, 1] =
      (.decoded, { Derived.default with address := 80#8, speedStep := 7#4 }) := by decide

/-- V-DEC-15 (95_test_vectors.md section 2.3). -/
theorem test_vdec15_locSpeed9 :
    decodesTo .locomotive .locSpeed9 [0, 0, 0, 0, 0, 0, 0, 0, 0, 0, 1, 1, 0, 0, 0, 0, 1, 1] =
      (.decoded, { Derived.default with address := 80#8, speedStep := 8#4 }) := by decide

/-- V-DEC-16 (95_test_vectors.md section 2.3). -/
theorem test_vdec16_locSpeed10 :
    decodesTo .locomotive .locSpeed10 [0, 0, 0, 0, 0, 0, 0, 0, 0, 0, 0, 0, 1, 1, 0, 0, 1, 1] =
      (.decoded, { Derived.default with address := 80#8, speedStep := 9#4 }) := by decide

/-- V-DEC-17 (95_test_vectors.md section 2.3). -/
theorem test_vdec17_locSpeed11 :
    decodesTo .locomotive .locSpeed11 [0, 0, 0, 0, 0, 0, 0, 0, 0, 0, 1, 1, 1, 1, 0, 0, 1, 1] =
      (.decoded, { Derived.default with address := 80#8, speedStep := 10#4 }) := by decide

/-- V-DEC-18 (95_test_vectors.md section 2.3). -/
theorem test_vdec18_locSpeed12 :
    decodesTo .locomotive .locSpeed12 [0, 0, 0, 0, 0, 0, 0, 0, 0, 0, 0, 0, 0, 0, 1, 1, 1, 1] =
      (.decoded, { Derived.default with address := 80#8, speedStep := 11#4 }) := by decide

/-- V-DEC-19 (95_test_vectors.md section 2.3). -/
theorem test_vdec19_locSpeed13 :
    decodesTo .locomotive .locSpeed13 [0, 0, 0, 0, 0, 0, 0, 0, 0, 0, 1, 1, 0, 0, 1, 1, 1, 1] =
      (.decoded, { Derived.default with address := 80#8, speedStep := 12#4 }) := by decide

/-- V-DEC-20 (95_test_vectors.md section 2.3). -/
theorem test_vdec20_locSpeed14 :
    decodesTo .locomotive .locSpeed14 [0, 0, 0, 0, 0, 0, 0, 0, 0, 0, 0, 0, 1, 1, 1, 1, 1, 1] =
      (.decoded, { Derived.default with address := 80#8, speedStep := 13#4 }) := by decide

/-- V-DEC-21 (95_test_vectors.md section 2.3). -/
theorem test_vdec21_locSpeed15 :
    decodesTo .locomotive .locSpeed15 [0, 0, 0, 0, 0, 0, 0, 0, 0, 0, 1, 1, 1, 1, 1, 1, 1, 1] =
      (.decoded, { Derived.default with address := 80#8, speedStep := 14#4 }) := by decide

/-- V-DEC-24 (95_test_vectors.md section 2.3). -/
theorem test_vdec24_extNop01 :
    decodesTo .locomotive .extNop01 [0, 0, 0, 0, 0, 0, 0, 0, 0, 0, 1, 0, 0, 0, 1, 0, 0, 0] =
      (.decoded, { Derived.default with
        variant := .extended, address := 80#8, speedStep := 4#4 }) := by decide

/-- V-DEC-27 (95_test_vectors.md section 2.3). -/
theorem test_vdec27_extFunc2 :
    decodesTo .locomotive .extFunc2 [0, 0, 0, 0, 0, 0, 0, 0, 0, 0, 1, 0, 0, 0, 1, 1, 0, 1] =
      (.decoded, { Derived.default with
        variant := .extended, address := 80#8, speedStep := 4#4, extFuncIndex := .f2, extFuncOn := true }) := by decide

/-- V-DEC-29 (95_test_vectors.md section 2.3). -/
theorem test_vdec29_extFwd :
    decodesTo .locomotive .extFwd [0, 0, 0, 0, 0, 0, 0, 0, 0, 0, 1, 0, 0, 1, 1, 0, 0, 1] =
      (.decoded, { Derived.default with
        variant := .extended, address := 80#8, speedStep := 4#4, extDir := .forward }) := by decide

/-- V-DEC-31 (95_test_vectors.md section 2.3). -/
theorem test_vdec31_extFunc3 :
    decodesTo .locomotive .extFunc3 [0, 0, 0, 0, 0, 0, 0, 0, 0, 0, 1, 0, 0, 1, 1, 1, 0, 1] =
      (.decoded, { Derived.default with
        variant := .extended, address := 80#8, speedStep := 4#4, extFuncIndex := .f3, extFuncOn := true }) := by decide

/-- V-DEC-32 (95_test_vectors.md section 2.3). -/
theorem test_vdec32_extNop89 :
    decodesTo .locomotive .extNop89 [0, 0, 0, 0, 0, 0, 0, 0, 0, 0, 1, 1, 0, 0, 1, 0, 0, 0] =
      (.decoded, { Derived.default with
        variant := .extended, address := 80#8, speedStep := 4#4 }) := by decide

/-- V-DEC-34 (95_test_vectors.md section 2.3). -/
theorem test_vdec34_extBwd :
    decodesTo .locomotive .extBwd [0, 0, 0, 0, 0, 0, 0, 0, 0, 0, 0, 1, 0, 0, 1, 1, 0, 0] =
      (.decoded, { Derived.default with
        variant := .extended, address := 80#8, speedStep := 3#4, extDir := .backward }) := by decide

/-- V-DEC-37 (95_test_vectors.md section 2.3). -/
theorem test_vdec37_extFunc1 :
    decodesTo .locomotive .extFunc1 [0, 0, 0, 0, 0, 0, 0, 0, 0, 0, 1, 1, 0, 1, 1, 0, 0, 1] =
      (.decoded, { Derived.default with
        variant := .extended, address := 80#8, speedStep := 4#4, extFuncIndex := .f1, extFuncOn := true }) := by decide

/-- V-DEC-39 (95_test_vectors.md section 2.3). -/
theorem test_vdec39_extFunc4 :
    decodesTo .locomotive .extFunc4 [0, 0, 0, 0, 0, 0, 0, 0, 0, 0, 1, 1, 0, 1, 1, 1, 0, 1] =
      (.decoded, { Derived.default with
        variant := .extended, address := 80#8, speedStep := 4#4, extFuncIndex := .f4, extFuncOn := true }) := by decide

/-- V-DEC-41: every field left from an earlier frame is cleared first. -/
theorem test_vdec41_stale_fields :
    let r := raw [0, 0, 0, 0, 0, 0, 0, 0, 0, 0, 0, 1, 1, 0, 0, 0, 0, 0]
    let stale : Derived := { Derived.default with
      variant := .extended, address := 9#8, subAddress := 7#3, magnetState := true, extDir := .forward
      extFuncIndex := .f3, extFuncOn := true }
    let s := pairAt (Slot.initial .consumed) { slotOf .readyToDecode .locomotive r with derived := stale } (.pass 1 false)
    slotGet (ran (passStep s)) 1 =
      { slotOf .decoded .locomotive r with
        derived := { Derived.default with variant := .extended, address := 80#8, speedStep := 1#4 } } := by decide

/-! ### Duplicate validation, the passes and the consumer (95_test_vectors.md sections 2.4 to 2.7) -/

/-- The label of the slot step of slot 1. -/
def labelAfter (r0 r1 : Slot) : Option Label := (ran (passStep (pairAt r0 r1 (.pass 1 false)))).label

/-- V-VAL-1 and V-VAL-3: a Decoded predecessor with the same bits confirms, a Validated one does not. -/
theorem test_duplicate_validation :
    labelAfter (slotOf .decoded .locomotive rawX) (slotOf .readyToDecode .locomotive rawX) =
      some (.slot .validated) ∧
    labelAfter (slotOf .validated .locomotive rawX) (slotOf .readyToDecode .locomotive rawX) =
      some (.slot .decoded) := by decide

/-- V-VAL-2 and V-VAL-8: the 18 bits decide, not the kind. -/
theorem test_duplicate_compares_raw_bits :
    labelAfter (slotOf .decoded .locomotive rawY) (slotOf .readyToDecode .locomotive rawX) =
      some (.slot .decoded) ∧
    labelAfter (slotOf .decoded .magnet rawX) (slotOf .readyToDecode .locomotive rawX) =
      some (.slot .validated) := by decide

/-- V-POLL-2's select step: the snapshot of slot 1, which becomes Consumed. -/
theorem test_poll_select :
    let r := { slotOf .validated .locomotive rawX with dur := 3562, derived := derivedX }
    let s := ran (passStep (pairAt (slotOf .decoded .locomotive rawY) r (.pass 4 true)))
    (s.responses, (slotGet s 1).state, s.cphase) =
      ([.pollSome { raw := rawX, dur := 3562, kind := .locomotive, derived := derivedX }], .consumed, .idle) := by decide

/-- V-POLL-1's last step, and the pass end of DECODE_PASS (42_decoder.md R111). -/
theorem test_poll_none_and_done :
    (ran (passStep { State.reset with cphase := .pass 4 true })).responses = [.pollNone] ∧
    (ran (passStep { State.reset with cphase := .pass 4 false })).responses = [.done] := by decide

/-- The issue steps (42_decoder.md R110, 43_consumer.md R135). -/
theorem test_issue_steps :
    (ran (exec .decodePass State.reset)).cphase = .pass 0 false ∧ (ran (exec .poll State.reset)).cphase = .pass 0 true := by
  decide

/-- V-OBS-4 and V-OBS-5: the index is read modulo 4. -/
theorem test_slot_at :
    (ran (exec (.slotAt 5) State.reset)).responses = [.slotRecord (Slot.initial .consumed)] ∧
    (ran (exec (.slotAt 0) State.reset)).responses = [.slotRecord (Slot.initial .capturing)] := by decide

/-- V-OBS-1. -/
theorem test_write_ptr : (ran (exec .writePtr State.reset)).responses = [.writePtr 0] := by decide

/-- V-RST-1 and V-RST-3: a POLL in progress is dropped without a response, and the refusal mark stays. -/
theorem test_reset :
    let s := { pairAt (slotOf .decoded .locomotive rawX) (slotOf .validated .locomotive rawX) (.pass 2 true) with
      lastTs := 9000, synced := true, count := 10, refusedMark := true }
    ran (exec .reset s) = { State.reset with refusedMark := true } := rfl

/-- V-ENC-10 to V-ENC-12: a refused word changes nothing but the mark. -/
theorem test_reserved :
    ran (exec (.reserved0x0 0) State.reset) = { State.reset with refusedMark := true } ∧
    ran (exec (.reserved0x7 3) State.reset) = { State.reset with refusedMark := true } ∧
    ran (exec (.reserved0x8To0xF 7 0) State.reset) = { State.reset with refusedMark := true } := ⟨rfl, rfl, rfl⟩

/-! ### Steps -/

/-- A word placed by withFetchWord is the next step's: a request, a refused word, and a telegram. -/
theorem test_with_fetch_word :
    (ran (step (State.reset.withFetchWord 40 0x000001F51))).label = some (.edge .sync) ∧
    (ran (step (State.reset.withFetchWord 40 0x000000012))).refusedMark = true ∧
    (ran (step (State.reset.withFetchWord 24 0x40100))).label = some (.slot .invalid) := by decide

/-- 20_memory.md R53: an EDGE may fall between two slot steps, and the pass goes on where it was. -/
theorem test_edge_between_slot_steps :
    let s := { State.reset with cphase := .pass 2 true, edgeIn := [0x000001F51], schedule := [.edge, .consumer] }
    (ran (step s)).cphase = .pass 2 true ∧ (ran (step (ran (step s)))).cphase = .pass 3 true := by decide

/-! ### Witnesses: states and operands that meet the hypotheses of the statements -/

/-- A check of the invariant that evaluates. -/
def invCheck (s : State) : Bool :=
  s.cfg.wf && storesWf s && decide (s.wp < s.cfg.capacity) &&
  (List.range s.cfg.capacity).all (fun i => decide ((slotGet s i).state = .capturing ↔ i = s.wp)) &&
  decide (s.lastTs < 2 ^ s.cfg.tsWidth) && decide (s.syncTs < 2 ^ s.cfg.tsWidth) && decide (s.count ≤ 34) &&
  decide (s.synced = false → s.count = 0) && s.iv.all (fun x => decide (x ≤ 2 ^ s.cfg.sampleWidth - 1)) &&
  s.slots.all (fun r => decide (r.dur < 2 ^ s.cfg.tsWidth)) &&
  (match s.cphase with
    | .idle => true
    | .pass i _ => decide (i ≤ s.cfg.capacity)) &&
  s.slots.all (fun r =>
    decide ((r.state = .decoded ∨ r.state = .validated) →
      decodeFails r.kind r.raw = false ∧ r.derived = derivedOf s.cfg r.kind r.raw) &&
    (decide (r.state = .invalid → decodeFails r.kind r.raw = true ∧ r.derived = derivedOf s.cfg r.kind r.raw) &&
    decide (r.state = .consumed → r = Slot.initial .consumed ∨
      decodeFails r.kind r.raw = false ∧ r.derived = derivedOf s.cfg r.kind r.raw))) &&
  s.slots.all (fun r => decide (r.derived.speedStep.toNat ≤ 14))

theorem inv_of_check {s : State} (h : invCheck s = true) : Machine.Inv s := by
  simp only [invCheck, Bool.and_eq_true, List.all_eq_true, List.mem_range, decide_eq_true_eq] at h
  obtain ⟨⟨⟨⟨⟨⟨⟨⟨⟨⟨⟨⟨h1, h2⟩, h3⟩, h4⟩, h5⟩, h6⟩, h7⟩, h8⟩, h9⟩, h10⟩, h11⟩, h12⟩, h13⟩ := h
  refine ⟨h1, ⟨h2, h3, h4⟩, ⟨h5, h6, h7, h8, h9, h10⟩, ?_, ⟨h12, h13⟩⟩
  intro i t hc
  rw [hc] at h11
  simpa using h11

/-- The state of V-VAL-1 after its pass has reached slot 1, with the derived fields slot 0 then has. -/
def stX (p : CPhase) : State :=
  pairAt { slotOf .decoded .locomotive rawX with derived := derivedX } (slotOf .readyToDecode .locomotive rawX) p

/-- A state whose 35th sample is due, in a pass. -/
def stFrame (a b lastTs : Nat) : State := { syncedAt Config.ref 34 lastTs (samples a b) with cphase := .pass 2 true }

/-- A command word waits at the CONSUMER's port. -/
def stWord (w : Nat) : State := { State.reset with consumerIn := [w] }

theorem test_witness_ref_state :
    State.reset.cfg.wf = true ∧ State.reset.cphase = .idle ∧ formatOf .poll = .cmd ∧ Instr.poll.wf Config.ref = true := by
  decide

/-- RequestsDecodeFromTheirWords at the largest operands; DecodedRequestsEncodeToTheirWords. -/
theorem test_witness_requests :
    (Instr.edge (2 ^ 32 - 1)).wf Config.ref = true ∧ formatOf (.edge (2 ^ 32 - 1)) = .cmd ∧
    (Instr.reserved0x8To0xF 7 (2 ^ 32 - 1)).wf Config.ref = true ∧
    decodeCmd Config.ref.tsWidth 0xFFFFFFFFF = .ok (.reserved0x8To0xF 7 (2 ^ 32 - 1)) := by decide

/-- OnlyNonzeroOperandsAreRejected: a word on each side. -/
theorem test_witness_rejected_words :
    0xFFFFFFFF2 < 2 ^ (32 + 4) ∧ decodeCmd 32 0xFFFFFFFF2 = .error (.nonzeroOperand 2 (2 ^ 32 - 1)) ∧
    2 < 2 ^ (32 + 4) ∧ decodeCmd 32 2 = .ok .decodePass := by decide

/-- TelegramClassesDecodeFromTheirWords, for a base class and a sub-class, and for both class names of a word. -/
theorem test_witness_telegrams :
    formatOf (.magBad 0x100) = .decodeWord ∧ (Instr.magBad 0x100).wf Config.ref = true ∧
    formatOf (.extFunc4 0x0A800) = .decodeWord ∧ (Instr.extFunc4 0x0A800).wf Config.ref = true ∧
    decodeDW (encode (.extFunc4 0x0A800)) = .ok (.extFunc4 0x0A800) ∧
    Instr.locStop 0x0A800 ∈ classesOf .locomotive (0x0A800 : RawBits) ∧
    Instr.extFunc4 0x0A800 ∈ classesOf .locomotive (0x0A800 : RawBits) := by decide

/-- BothNamesOfAWordMeanOneStep. -/
theorem test_witness_extended : ext (0x00800 : RawBits) = true ∧ ext (0x3FFFF : RawBits) = false := by decide

/-- IllFormedConfigurationRefusesAll. -/
theorem test_witness_ill_formed : { State.reset with cfg := { Config.ref with capacity := 0 } }.cfg.wf = false := by decide

/-- ResetSetsEveryRegister: RESET words with operand zero and with the largest operand; the last slot. -/
theorem test_witness_reset_words :
    0x000000006 < 2 ^ (32 + 4) ∧ 0x000000006 % 16 = 6 ∧ 0xFFFFFFFF6 < 2 ^ (32 + 4) ∧ 0xFFFFFFFF6 % 16 = 6 ∧
    State.reset.cfg.capacity = 4 := by decide

/-- RefusedMarkIsNeverCleared, RefusedMarkIsNeverRead, ResponsesOnlyGrow: a RESET step from a marked state. -/
theorem test_witness_marked_reset :
    ∃ t, step { State.reset with refusedMark := true, resetIn := [6] } = .next t ∧ t.refusedMark = true := ⟨_, rfl, rfl⟩

/-- EdgeSyncStartsACapture and EdgeIgnoredChangesOnlyLastTs at the threshold. -/
theorem test_witness_unsynced :
    State.reset.synced = false ∧ State.reset.cfg.gapThreshold < deltaOf 501 State.reset ∧
    deltaOf 500 State.reset ≤ State.reset.cfg.gapThreshold := by decide

/-- EdgeResyncRestartsTheCapture and EdgeSampleStoresTheInterval: at the threshold, with the 34th and the 35th sample due. -/
theorem test_witness_synced :
    let s := syncedAt Config.ref 33 1000 (samples 26 182)
    let u := syncedAt Config.ref 34 1000 (samples 26 182)
    s.cfg.wf = true ∧ s.synced = true ∧ s.cfg.gapThreshold < deltaOf 1501 s ∧ deltaOf 1500 s ≤ s.cfg.gapThreshold ∧ s.count + 1 < 35 ∧
    u.count + 1 = 35 ∧ deltaOf 1500 u ≤ u.cfg.gapThreshold := by decide

/-- StoredSamplesFit. -/
theorem test_witness_samples_fit :
    (∀ x ∈ State.reset.iv, x ≤ 2 ^ State.reset.cfg.sampleWidth - 1) ∧ ∃ t, exec (.edge 501) State.reset = .next t :=
  ⟨by decide, _, rfl⟩

/-- EdgeRejectsFramesInTheBand: a pair in the band at each bound, and a frame with none. -/
theorem test_witness_band :
    let s := stFrame 26 99 4453
    let u := stFrame 26 149 4503
    let v := stFrame 26 98 4452
    (s.cfg.wf, s.synced, s.count, u.count, v.count) = (true, true, 34, 34, 34) ∧ deltaOf 4479 s ≤ s.cfg.gapThreshold ∧
    pairSum (s.iv.set 34 26) 5 = s.cfg.bandLo ∧ pairSum (u.iv.set 34 26) 5 = u.cfg.bandHi ∧
    rejected v.cfg (v.iv.set 34 26) = false := by decide

/-- EdgeAcceptFillsTheWriteSlot, SamplerWritesOnlyTheWriteSlotAndTheNext, EdgePreservesAPassInProgress. -/
theorem test_witness_accept :
    let s := stFrame 26 182 4536
    (s.cfg.wf, s.slots.length, s.synced, s.count) = (true, s.cfg.capacity, true, 34) ∧ s.wp < s.cfg.capacity ∧
    2 ≤ s.cfg.capacity ∧ deltaOf 4562 s ≤ s.cfg.gapThreshold ∧
    rejected s.cfg (s.iv.set 34 (deltaOf 4562 s / s.cfg.ratio)) = false := by decide

theorem test_witness_accept_steps : ∃ t, exec (.edge 4562) (stFrame 26 182 4536) = .next t := ⟨_, rfl⟩

/-- EdgeAcceptFillsTheWriteSlot with one slot. -/
theorem test_witness_accept_one_slot :
    let s := syncedAt refN1 34 4536 (samples 26 182)
    (s.cfg.wf, s.cfg.capacity, s.slots.length, s.wp, s.synced, s.count) = (true, 1, 1, 0, true, 34) ∧
    deltaOf 4562 s ≤ s.cfg.gapThreshold ∧ rejected s.cfg (s.iv.set 34 (deltaOf 4562 s / s.cfg.ratio)) = false := by decide

/-- FinalizationClearsTheCounters: an accepted and a rejected frame. -/
theorem test_witness_finalized :
    (ran (exec (.edge 4562) (stFrame 26 182 4536))).label = some (.edge .accept) ∧
    (ran (exec (.edge 4479) (stFrame 26 99 4453))).label = some (.edge .reject) := by decide

/-- StaleSamplesAreNeverRead: two buffers that differ past the first sample. -/
theorem test_witness_stale :
    let s := syncedAt Config.ref 1 1026 (samples 26 182)
    let iv := 26 :: List.replicate 34 7
    s.iv.length = 35 ∧ iv.length = 35 ∧ s.count ≤ 34 ∧ (∀ k < s.count, iv.getD k 0 = s.iv.getD k 0) ∧ iv ≠ s.iv := by decide

/-- StaleSamplesAreNeverRead: a step of the EDGE producer, of the CONSUMER and of RESET. -/
theorem test_witness_stale_steps :
    let s := syncedAt Config.ref 1 1026 (samples 26 182)
    (∃ t, step { s with edgeIn := [1052 * 16 + 1] } = .next t) ∧ (∃ t, step { s with consumerIn := [3] } = .next t) ∧
    ∃ t, step { s with resetIn := [6] } = .next t := ⟨⟨_, rfl⟩, ⟨_, rfl⟩, ⟨_, rfl⟩⟩

/-- WritePtrRespondsWithTheWritePointer: a write pointer that does not fit in one bit. -/
theorem test_witness_write_ptr :
    let c := { Config.ref with tsWidth := 1, gapThreshold := 1 }
    let s := { State.resetOf c with wp := 2 }
    c.wf = true ∧ s.cphase = .idle ∧ 2 ^ s.cfg.tsWidth ≤ s.wp ∧ State.reset.wp < 2 ^ State.reset.cfg.tsWidth := by decide

/-- ConsumerRequestsWaitForThePass: POLL words at two ports while a pass is in progress. -/
theorem test_witness_hold :
    let s := { State.reset with cphase := .pass 1 false, edgeIn := [3], resetIn := [2], consumerIn := [3] }
    s.cphase ≠ .idle ∧ isConsumerOp (opOf 3) = true ∧ isConsumerOp (opOf 2) = true ∧
    (ran (step s)).consumerIn = [3] ∧ (ran (step s)).edgeIn = [3] ∧ (ran (step s)).resetIn = [2] := by decide

/-- SlotStepSkipsOtherStates at the last slot; PassEndRespondsDone and SelectConsumesTheFirstValidatedSlot past it. -/
theorem test_witness_pass :
    let s := { State.reset with cphase := .pass 3 true }
    let u := pairAt (slotOf .decoded .locomotive rawY) (slotOf .validated .locomotive rawX) (.pass 4 true)
    3 < s.cfg.capacity ∧ (slotGet s 3).state ≠ .readyToDecode ∧ u.cphase = .pass u.cfg.capacity true ∧
    (slotGet u 1).state = .validated ∧ (∀ j < 1, (slotGet u j).state ≠ .validated) ∧
    (∀ i < s.cfg.capacity, (slotGet s i).state ≠ .validated) := by decide

/-- ReadyAt, for every statement about a telegram class, with any telegram in slot 1. -/
theorem readyAt_decAt (k : Kind) (r : RawBits) :
    ReadyAt (decAt k r) 1 false ∧ (slotGet (decAt k r) 1).kind = k ∧ (slotGet (decAt k r) 1).raw = r :=
  ⟨⟨(by decide : Config.ref.wf = true), rfl, rfl, (by decide : 1 < 4), rfl⟩, rfl, rfl⟩

/-- MagnetTelegramDecodes and BadMagnetTelegramIsInvalid: every hypothesis together, on a magnet telegram of each class. -/
theorem test_witness_magnet :
    (ReadyAt (decAt .magnet 0) 1 false ∧ (slotGet (decAt .magnet 0) 1).kind = .magnet ∧
      (slotGet (decAt .magnet 0) 1).raw = 0 ∧ rawBit 0 8 = false) ∧
    ReadyAt (decAt .magnet 0x100) 1 false ∧ (slotGet (decAt .magnet 0x100) 1).kind = .magnet ∧
    (slotGet (decAt .magnet 0x100) 1).raw = 0x100 ∧ rawBit 0x100 8 = true :=
  ⟨⟨(readyAt_decAt _ _).1, rfl, rfl, by decide⟩, (readyAt_decAt _ _).1, rfl, rfl, by decide⟩

/-- LocomotiveClassesSetTheirSpeedField: the speed codes 0, 1, 2 and 15 in slots that meet the hypotheses. -/
theorem test_witness_speed_codes :
    ∀ p ∈ [((0x00000 : RawBits), 0), (0x00400, 1), (0x01000, 2), (0x15400, 15)],
      ReadyAt (decAt .locomotive p.1) 1 false ∧ (slotGet (decAt .locomotive p.1) 1).kind = .locomotive ∧
      (slotGet (decAt .locomotive p.1) 1).raw = p.1 ∧ speedCode p.1 = p.2 := by
  have h : ∀ p ∈ [((0x00000 : RawBits), 0), (0x00400, 1), (0x01000, 2), (0x15400, 15)], speedCode p.1 = p.2 := by decide
  exact fun p hp => ⟨(readyAt_decAt _ _).1, rfl, rfl, h p hp⟩

/-- ExtendedClassesSetTheirFields: the extended codes at both ends of each row, in slots that meet the hypotheses. -/
theorem test_witness_extended_codes :
    ∀ p ∈ [((0x00400 : RawBits), 0), (0x20000, 1), (0x08000, 2), (0x28000, 3), (0x02000, 4), (0x22000, 5), (0x0A000, 6),
        (0x2A000, 7), (0x00800, 8), (0x20800, 9), (0x08800, 10), (0x28800, 11), (0x02800, 12), (0x22800, 13), (0x0A800, 14),
        (0x2A800, 15)],
      ReadyAt (decAt .locomotive p.1) 1 false ∧ (slotGet (decAt .locomotive p.1) 1).kind = .locomotive ∧
      (slotGet (decAt .locomotive p.1) 1).raw = p.1 ∧ ext p.1 = true ∧ extCode p.1 = p.2 := by
  have h : ∀ p ∈ [((0x00400 : RawBits), 0), (0x20000, 1), (0x08000, 2), (0x28000, 3), (0x02000, 4), (0x22000, 5), (0x0A000, 6),
        (0x2A000, 7), (0x00800, 8), (0x20800, 9), (0x08800, 10), (0x28800, 11), (0x02800, 12), (0x22800, 13), (0x0A800, 14),
        (0x2A800, 15)], ext p.1 = true ∧ extCode p.1 = p.2 := by decide
  exact fun p hp => ⟨(readyAt_decAt _ _).1, rfl, rfl, h p hp⟩

theorem test_witness_ready_last_slot :
    let s := { State.reset with
      slots := [Slot.initial .capturing, Slot.initial .consumed, Slot.initial .consumed, slotOf .readyToDecode .magnet 0]
      cphase := .pass 3 true }
    ReadyAt s 3 true := ⟨by decide, by decide, rfl, by decide, by decide⟩

/-- ExtendedCodeMapIsTheTable. -/
theorem test_witness_default_extended :
    Derived.default.extFuncIndex = .none ∧ Derived.default.extFuncOn = false ∧ Derived.default.extDir = .none := by decide

/-- DuplicateOfADecodedPredecessorValidates: a predecessor that confirms, and one that does not. -/
theorem test_witness_duplicate :
    ReadyAt (stX (.pass 1 false)) 1 false ∧ (1 + (stX (.pass 1 false)).cfg.capacity - 1) % 4 = 0 ∧
    decodeFails .locomotive rawX = false ∧
    confirmed (stX (.pass 1 false)) 1 rawX = true ∧ confirmed (decAt .locomotive rawX) 1 rawX = false :=
  ⟨⟨by decide, by decide, rfl, by decide, by decide⟩, by decide, by decide, by decide, by decide⟩

/-- SlotStepsKeepTheCaptureFields, DecoderAndConsumerFrame: a telegram class and a request that step. -/
theorem test_witness_exec :
    (∃ t, exec (.mag 0) (decAt .magnet 0) = .next t) ∧ (∃ t, exec .poll State.reset = .next t) := ⟨⟨_, rfl⟩, ⟨_, rfl⟩⟩

/-- ClassesRefineTheSlotStep: both names of an extended word, on a slot that holds it. -/
theorem test_witness_classes :
    let s := decAt .locomotive 0x0C800
    ReadyAt s 1 false ∧ Instr.locSpeed4 0x0C800 ∈ classesOf (slotGet s 1).kind (slotGet s 1).raw ∧
    Instr.extBwd 0x0C800 ∈ classesOf (slotGet s 1).kind (slotGet s 1).raw :=
  ⟨(readyAt_decAt _ _).1, by decide, by decide⟩

/-- StepRunsTheRequestAtThePort, and AnyEnabledAgentMayMoveNext. -/
theorem test_witness_request_at_port :
    nextTurn (stWord 3) (stWord 3).schedule = some (.consumer, []) ∧ (stWord 3).cphase = .idle ∧
    portOf (stWord 3) .consumer = [3] ∧ held (stWord 3) 3 = false ∧
    decodeCmd (stWord 3).cfg.tsWidth 3 = .ok .poll ∧ enabled (stWord 3) .consumer = true := by decide

/-- StepRunsTheTelegramOfTheSlot. -/
theorem test_witness_telegram_of_slot :
    nextTurn (decAt .magnet 0) (decAt .magnet 0).schedule = some (.consumer, []) ∧
    (slotGet (decAt .magnet 0) 1).state = .readyToDecode := by decide

/-- StepRefusesANonzeroOperand: one word for each opcode. -/
theorem test_witness_nonzero_operand :
    ∀ w ∈ [0x12, 0x13, 0x15, 0x16], nextTurn (stWord w) (stWord w).schedule = some (.consumer, []) ∧
      portOf (stWord w) .consumer = [w] ∧ held (stWord w) w = false ∧ w / 16 ≠ 0 ∧
      (w % 16 = 2 ∨ w % 16 = 3 ∨ w % 16 = 5 ∨ w % 16 = 6) := by decide

/-- IdleBlockKeepsItsState: no agent has a step after reset. -/
theorem test_witness_idle :
    enabled State.reset .edge = false ∧ enabled State.reset .consumer = false ∧
    enabled State.reset .reset = false := by decide

/-- The invariant's hypotheses: the reset state, a state in a pass, and a frame in progress whose last sample is due. -/
theorem test_witness_inv :
    Machine.Inv State.reset ∧ Machine.Inv (stX (.pass 4 true)) ∧ Machine.Inv (stFrame 26 182 4536) :=
  ⟨inv_of_check (by decide), inv_of_check (by decide), inv_of_check (by decide)⟩

theorem test_witness_queue_inv : QueueInv (stX (.pass 1 false)) := (inv_of_check (by decide)).queue

/-- OnlyTheListedTransitions: steps of the sampler, of the decoder and of the consumer from states that meet the invariant. -/
theorem test_witness_transitions :
    (slotGet (ran (step { stFrame 26 182 4536 with edgeIn := [4562 * 16 + 1] })) 0).state = .readyToDecode ∧
    (slotGet (ran (step { stFrame 26 182 4536 with edgeIn := [4562 * 16 + 1] })) 1).state = .capturing ∧
    (slotGet (ran (step (stX (.pass 1 false)))) 1).state = .validated ∧
    (slotGet (ran (step (decAt .locomotive 0))) 1).state = .decoded ∧
    (slotGet (ran (step (decAt .magnet 0x100))) 1).state = .invalid := by decide

/-- The state of stFrame with the word of its last EDGE at the port; the frame it accepts goes into a slot that the cursor has
left behind. -/
def stAccept : State := { stFrame 26 182 4536 with edgeIn := [4562 * 16 + 1] }

/-- The state of V-VAL-1 with a RESET word at the port. -/
def stReset : State := { stX (.pass 1 false) with resetIn := [6] }

theorem test_witness_accepted_edge : Machine.Inv stAccept ∧ AcceptedEdge stAccept (ran (step stAccept)) 4562 :=
  ⟨inv_of_check (by decide), ⟨.edge, [], 4562 * 16 + 1, [], by decide, by decide, rfl, by decide, by decide, rfl⟩, by decide⟩

theorem test_witness_took_reset : Machine.Inv stReset ∧ TookReset stReset (ran (step stReset)) :=
  ⟨inv_of_check (by decide), .reset, [], 6, [], by decide, by decide, rfl, by decide, by decide, rfl⟩

/-- OnlyTheListedTransitions: the slot step of slot 1, and the select step that consumes a slot. -/
theorem test_witness_slot_turn : SlotTurn (stX (.pass 1 false)) (ran (step (stX (.pass 1 false)))) 1 :=
  ⟨⟨[], by decide⟩, false, rfl, by decide⟩

theorem test_witness_select_turn :
    let s := pairAt { slotOf .decoded .locomotive rawX with derived := derivedX }
      { slotOf .validated .locomotive rawX with derived := derivedX } (.pass 4 true)
    Machine.Inv s ∧ ConsumerTurn s ∧ (slotGet (ran (step s)) 1).state = .consumed ∧ Machine.Inv (ran (step s)) :=
  ⟨inv_of_check (by decide), ⟨[], by decide⟩, by decide, inv_of_check (by decide)⟩

/-- EveryStepRetainsTheNewestFrames: no frame accepted yet; and six frames in four slots, of which frame 2 is the oldest kept and
is in the write slot, and frame 5 is the newest. -/
theorem test_witness_retains :
    Retains stAccept [] ∧
    Retains (stX (.pass 1 false)) (List.replicate 4 { raw := 0#18, dur := 0, kind := .locomotive } ++
      List.replicate 2 { raw := rawX, dur := 0, kind := .locomotive }) := by
  refine ⟨⟨by decide, fun j f h => by simp at h, fun j f h => by simp at h⟩, ⟨by decide, ?_, ?_⟩⟩ <;> intro j f hf hle <;>
    match j, hf, hle with
    | 0, _, hle => exact absurd hle (by decide)
    | 1, _, hle => exact absurd hle (by decide)
    | 2, hf, hle => first | (cases hf; decide) | exact absurd hle (by decide)
    | 3, hf, _ => cases hf; decide
    | 4, hf, _ => cases hf; decide
    | 5, hf, _ => cases hf; decide
    | n + 6, hf, _ => cases hf

/-- EveryStepRetainsTheNewestFrames: a step that is neither an accepted frame nor a RESET. -/
theorem test_witness_other_step :
    Machine.Inv (stX (.pass 1 false)) ∧ ¬TookReset (stX (.pass 1 false)) (ran (step (stX (.pass 1 false)))) ∧
    ∀ ts, ¬AcceptedEdge (stX (.pass 1 false)) (ran (step (stX (.pass 1 false)))) ts := by
  have h : ConsumerTurn (stX (.pass 1 false)) := ⟨[], by decide⟩
  exact ⟨inv_of_check (by decide), fun hr => hr.not_consumerTurn (by decide) h,
    fun ts ha => ha.1.not_consumerTurn (by decide) h⟩

/-- CursorMovesByTurnsAndLeavesNoSlotBehind: slots behind the cursor processed, before a slot step and before an EDGE that fills
one of them. -/
theorem test_witness_pass_clean :
    PassClean (stX (.pass 1 false)) [] ∧ PassClean stAccept [] ∧ stAccept.cphase = .pass 2 true ∧
    (slotGet (ran (step stAccept)) 0).state = .readyToDecode := by
  refine ⟨?_, ?_, rfl, by decide⟩ <;> intro i b hp j hj hr <;> obtain ⟨rfl, rfl⟩ := CPhase.pass.inj hp <;>
    revert hr <;> revert j <;> decide

/-- SmallCapacityNeverValidates: two slots, one ReadyToDecode. -/
theorem test_witness_two_slots :
    let s := { State.resetOf { Config.ref with capacity := 2 } with
      slots := [slotOf .readyToDecode .locomotive rawX, Slot.initial .capturing], wp := 1, cphase := .pass 0 false }
    QueueInv s ∧ s.cfg.capacity ≤ 2 ∧ NoValidated s :=
  ⟨(inv_of_check (by decide)).queue, by decide, by unfold NoValidated; decide⟩

/-- NewestFramesAreRetained: five frames in four slots; the oldest one kept is frame 1, and the newest is frame 4. -/
theorem test_witness_retained :
    let fs := (List.range 5).map fun n => ({ raw := BitVec.ofNat 18 n, dur := n, kind := .locomotive } : Frame)
    let s := enqueueAll State.reset fs
    fs.length ≤ 1 + Config.ref.capacity ∧ fs.length < 4 + Config.ref.capacity ∧ (slotGet s 1).dur = 1 ∧
    (slotGet s 1).state = .capturing ∧ (slotGet s 0).dur = 4 ∧ (slotGet s 0).state = .readyToDecode := by decide

/-- PassLeavesNoSlotToDecode, and its conclusion on one state. -/
theorem test_witness_whole_pass :
    let s := stX (.pass 0 false)
    s.slots.length = s.cfg.capacity ∧ (ran (consumerRun 4 s)).cphase = .pass 4 false ∧
    ∀ r ∈ (ran (consumerRun 4 s)).slots, r.state ≠ .readyToDecode := by decide

/-- PassRequestsFinishInBoundedSteps, for both requests. -/
theorem test_witness_bounded :
    (stWord 2).cphase = .idle ∧ (stWord 2).consumerIn = [2] ∧ (stWord 3).consumerIn = [3] ∧
    (ran (consumerRun 6 (stWord 2))).responses = [.done] ∧ (ran (consumerRun 6 (stWord 3))).responses = [.pollNone] := by decide

end Sys2Proof.Tests
end

/-! PROOFS. The statements of 00_scope.md: every instruction's outcome is one guarded effect, so every step has a next state and
an ill-formed configuration refuses every instruction; and the check of a configuration is the conditions of R15. -/

namespace Sys2Proof.Machine

/-- A refusal is the same refusal with or without the check of the configuration. -/
theorem guarded_refuse (s : State) : guarded s (refuse s) = .next (refuse s) := ite_self _

/-- A guarded step has a next state whether or not the configuration is well formed. -/
theorem exists_next_of_guarded (s t : State) : ∃ u, guarded s t = .next u := by
  cases h : s.cfg.wf with
  | true => exact ⟨t, guarded_of_wf t h⟩
  | false => exact ⟨refuse s, guarded_of_not_wf t h⟩

/-- Every arm of the dispatch answers one effect behind the check of the configuration (00_scope.md R15); the effect of a
reserved opcode is the refusal itself (30_encoding.md R67). -/
theorem exec_eq_guarded (i : Instr) (s : State) : ∃ t, exec i s = guarded s t := by
  cases i with
  | reserved0x0 _ | reserved0x7 _ | reserved0x8To0xF _ _ => exact ⟨refuse s, (guarded_refuse s).symm⟩
  | edge _ | decodePass | poll | slotAt _ | writePtr | reset | mag _ | magBad _ | locStop _ | locDirChg _ | locSpeed2 _
  | locSpeed3 _ | locSpeed4 _ | locSpeed5 _ | locSpeed6 _ | locSpeed7 _ | locSpeed8 _ | locSpeed9 _ | locSpeed10 _
  | locSpeed11 _ | locSpeed12 _ | locSpeed13 _ | locSpeed14 _ | locSpeed15 _ | extNop01 _ | extFunc2 _ | extFwd _
  | extFunc3 _ | extNop89 _ | extBwd _ | extFunc1 _ | extFunc4 _ => exact ⟨_, rfl⟩

theorem exists_next_of_exec (i : Instr) (s : State) : ∃ t, exec i s = .next t := by
  obtain ⟨t, ht⟩ := exec_eq_guarded i s
  exact ht ▸ exists_next_of_guarded s t

theorem exec_of_not_wf (i : Instr) {s : State} (h : s.cfg.wf = false) : exec i s = .next (refuse s) := by
  obtain ⟨t, ht⟩ := exec_eq_guarded i s
  exact ht.trans (guarded_of_not_wf t h)

theorem exists_next_of_runWord (w : Nat) (s : State) : ∃ t, runWord w s = .next t := by
  unfold runWord
  split
  · exact exists_next_of_exec _ s
  · exact ⟨refuse s, rfl⟩

theorem exists_next_of_passStep (s : State) : ∃ t, passStep s = .next t := by
  unfold passStep
  split
  · exact ⟨s, rfl⟩
  · split
    · split
      · exact exists_next_of_exec _ s
      · exact exists_next_of_guarded s _
    · exact exists_next_of_guarded s _

theorem exists_next_of_agentStep (a : Agent) (s : State) : ∃ t, agentStep a s = .next t := by
  unfold agentStep
  split
  · exact exists_next_of_passStep s
  · split
    · exact ⟨s, rfl⟩
    · exact exists_next_of_runWord _ _

theorem exists_next_of_step (s : State) : ∃ t, step s = .next t := by
  unfold step
  split
  · exact ⟨s, rfl⟩
  · exact exists_next_of_agentStep _ _

/-- Address byte 0 looks up entry 0 of the table: the table always has it (00_scope.md R13). -/
theorem addrLookup_zero (c : Config) : addrLookup c 0 = c.addrTable[0] := by
  simp [addrLookup, List.getD_eq_getElem?_getD]

/-- Settles O49: exec answers one guarded effect, and step ends in exec, in a guarded effect, in a refusal or in the state. -/
theorem everyStepHasANextState : Obligations.EveryStepHasANextState :=
  ⟨exists_next_of_step, exists_next_of_exec⟩

/-- Settles O9: each test of the check is one condition of R15. -/
theorem wellFormedConfigurationConditions : Obligations.WellFormedConfigurationConditions := by
  intro c
  simp only [Config.wf, addrLookup_zero, Bool.and_eq_true, decide_eq_true_eq, and_assoc]

/-- Settles O10: every instruction's effect stands behind the check of the configuration, which refuses it. -/
theorem illFormedConfigurationRefusesAll : Obligations.IllFormedConfigurationRefusesAll :=
  fun i _ h => exec_of_not_wf i h

end Sys2Proof.Machine

/-! PROOFS. What no request but EDGE and RESET reads or writes: the sampler's registers and the refusal mark. -/

namespace Sys2Proof.Machine

/-- `s` with the sampler's registers and the refusal mark of `x`. -/
def withSampler (x s : State) : State :=
  { s with
    lastTs := x.lastTs, syncTs := x.syncTs, synced := x.synced, count := x.count, iv := x.iv
    refusedMark := x.refusedMark }

@[simp] theorem withSampler_cfg (x s : State) : (withSampler x s).cfg = s.cfg := rfl
@[simp] theorem withSampler_cphase (x s : State) : (withSampler x s).cphase = s.cphase := rfl
@[simp] theorem withSampler_schedule (x s : State) : (withSampler x s).schedule = s.schedule := rfl
@[simp] theorem slotGet_withSampler (x s : State) (i : Nat) : slotGet (withSampler x s) i = slotGet s i := rfl

/-- `f` neither reads nor writes a sampler register or the refusal mark. -/
def Blind (f : State → State) : Prop := ∀ x s, f (withSampler x s) = withSampler x (f s)

theorem blind_setSchedule (rest : List Agent) : Blind fun s => { s with schedule := rest } := fun _ _ => rfl

theorem blind_setPort (a : Agent) (ws : List Nat) : Blind fun s => setPort s a ws := fun _ _ => by cases a <;> rfl

theorem blind_whenIdle {f : State → State} (hf : Blind f) : Blind fun s => whenIdle s (f s) := by
  intro x s
  dsimp only
  by_cases h : s.cphase = .idle
  · rw [whenIdle_of_idle _ h, whenIdle_of_idle _ (by exact h), hf]
  · rw [whenIdle_of_pass _ h, whenIdle_of_pass _ (by exact h)]

theorem blind_finishDecoded (d : Derived) (raw : RawBits) (i : Nat) : Blind (finishDecoded d raw i) := by
  intro x s
  simp only [finishDecoded, apply_ite (withSampler x)]
  rfl

theorem blind_slotStep {effect : Config → Nat → State → State} (he : ∀ c i, Blind (effect c i)) :
    Blind fun s => slotStep (effect s.cfg) s := by
  intro x s
  simp only [slotStep, withSampler_cfg, withSampler_cphase, slotGet_withSampler, he s.cfg _ x s]
  split
  · rfl
  · simp only [apply_ite (withSampler x)]
    split
    · split <;> rfl
    · rfl

theorem blind_endPass (b : Bool) : Blind (endPass b) := by
  intro x s
  cases b with
  | false => rfl
  | true =>
    have hf : firstValidated (withSampler x s) = firstValidated s := rfl
    simp only [endPass, selectStep, hf, if_true]
    split <;> rfl

theorem blind_skipStep : Blind skipStep := by
  intro x s
  simp only [skipStep, withSampler_cphase]
  split <;> rfl

/-- A meaning that refuses every state, or has one blind effect behind the check of the configuration. -/
def BlindMeaning (m : State → Host.Outcome State Fault Refusal) : Prop :=
  (∀ s, m s = .next (refuse s)) ∨ ∃ f, Blind f ∧ ∀ s, m s = guarded s (f s)

theorem blindMeaning_whenIdle {f : State → State} (hf : Blind f) : BlindMeaning fun s => guarded s (whenIdle s (f s)) :=
  .inr ⟨_, blind_whenIdle hf, fun _ => rfl⟩

theorem blindMeaning_decodes (d : Config → Derived) (raw : RawBits) : BlindMeaning fun s => decodes (d s.cfg) raw s :=
  .inr ⟨_, blind_slotStep fun c => blind_finishDecoded (d c) raw, fun _ => rfl⟩

theorem blindMeaning_decodesLoc (speed : Derived → Derived) (raw : RawBits) : BlindMeaning (decodesLoc speed raw) :=
  blindMeaning_decodes (fun c => extFields raw (speed (locFields c raw))) raw

theorem blindMeaning_decodesExt (extended : Derived → Derived) (raw : RawBits) : BlindMeaning (decodesExt extended raw) :=
  blindMeaning_decodes (fun c => extended (speedFields (speedCode raw) (locFields c raw))) raw

/-- Every instruction but EDGE and RESET is blind to the sampler's registers and the mark. -/
theorem exec_cases_blind (i : Instr) : (∃ ts, i = .edge ts) ∨ i = .reset ∨ BlindMeaning (exec i) := by
  cases i with
  | edge ts => exact .inl ⟨ts, rfl⟩
  | reset => exact .inr (.inl rfl)
  | reserved0x0 _ | reserved0x7 _ | reserved0x8To0xF _ _ => exact .inr (.inr (.inl fun _ => rfl))
  | decodePass =>
    exact .inr (.inr <| blindMeaning_whenIdle (f := fun s => setLabel (setPhase (.pass 0 false) s) none)
      fun _ _ => rfl)
  | poll =>
    exact .inr (.inr <| blindMeaning_whenIdle (f := fun s => setLabel (setPhase (.pass 0 true) s) none)
      fun _ _ => rfl)
  | slotAt idx =>
    exact .inr (.inr <| blindMeaning_whenIdle
      (f := fun s => setLabel (respond s (.slotRecord (slotGet s (slotIndex s.cfg.capacity idx)))) none) fun _ _ => rfl)
  | writePtr =>
    exact .inr (.inr <| blindMeaning_whenIdle (f := fun s => setLabel (respond s (.writePtr (zextWritePtr s.cfg s.wp))) none)
      fun _ _ => rfl)
  | mag raw => exact .inr (.inr <| blindMeaning_decodes (fun c => magnetFields raw (commonFields c raw)) raw)
  | magBad raw =>
    exact .inr (.inr <| .inr ⟨_, blind_slotStep (effect := fun c => finishInvalid (commonFields c raw)) fun _ _ _ _ => rfl,
      fun _ => rfl⟩)
  | locStop raw | locDirChg raw | locSpeed2 raw | locSpeed3 raw | locSpeed4 raw | locSpeed5 raw | locSpeed6 raw
  | locSpeed7 raw | locSpeed8 raw | locSpeed9 raw | locSpeed10 raw | locSpeed11 raw | locSpeed12 raw | locSpeed13 raw
  | locSpeed14 raw | locSpeed15 raw => exact .inr (.inr <| blindMeaning_decodesLoc _ raw)
  | extNop01 raw | extFunc2 raw | extFwd raw | extFunc3 raw | extNop89 raw | extBwd raw | extFunc1 raw | extFunc4 raw =>
    exact .inr (.inr <| blindMeaning_decodesExt _ raw)

@[simp] theorem offered_withSampler (x s : State) (a : Agent) : offered (withSampler x s) a = offered s a := by
  cases a <;> rfl

@[simp] theorem enabled_withSampler (x s : State) (a : Agent) : enabled (withSampler x s) a = enabled s a := by
  cases a <;> rfl

@[simp] theorem nextTurn_withSampler (x s : State) (sched : List Agent) :
    nextTurn (withSampler x s) sched = nextTurn s sched := by
  induction sched with
  | nil => rfl
  | cons a as ih => simp only [nextTurn, enabled_withSampler, ih]

/-- A relation between states that differ in the sampler's registers and the mark only, and that every effect of a step
keeps. -/
structure Simulation (R : State → State → Prop) : Prop where
  hidden : ∀ {s t}, R s t → ∃ x, t = withSampler x s
  blind : ∀ {f s t}, Blind f → R s t → R (f s) (f t)
  refuse : ∀ {s t}, R s t → R (refuse s) (refuse t)
  edge : ∀ {s t} ts, R s t → R (edgeStep ts s) (edgeStep ts t)
  reset : ∀ {s t}, R s t → R (resetRegisters s) (resetRegisters t)

/-- Two outcomes whose next states are related. -/
inductive RelatedNext (R : State → State → Prop) : (o o' : Host.Outcome State Fault Refusal) → Prop where
  | intro {u v : State} (h : R u v) : RelatedNext R (.next u) (.next v)

theorem RelatedNext.exists_next {R : State → State → Prop} {u : State} {o : Host.Outcome State Fault Refusal}
    (h : RelatedNext R (.next u) o) : ∃ v, o = .next v ∧ R u v := by
  cases h with
  | intro h => exact ⟨_, rfl, h⟩

section
variable {R : State → State → Prop} (sim : Simulation R) {s t : State}
include sim

theorem Simulation.guarded {s' t' : State} (h : R s t) (h' : R s' t') : RelatedNext R (guarded s s') (guarded t t') := by
  obtain ⟨x, hx⟩ := sim.hidden h
  have hcfg : t.cfg = s.cfg := by rw [hx, withSampler_cfg]
  cases hw : s.cfg.wf with
  | true => rw [guarded_of_wf _ hw, guarded_of_wf _ (hcfg ▸ hw)]; exact .intro h'
  | false => rw [guarded_of_not_wf _ hw, guarded_of_not_wf _ (hcfg ▸ hw)]; exact .intro (sim.refuse h)

theorem Simulation.exec (i : Instr) (h : R s t) : RelatedNext R (exec i s) (exec i t) := by
  rcases exec_cases_blind i with ⟨ts, rfl⟩ | rfl | hf | ⟨f, hb, hf⟩
  · exact sim.guarded h (sim.edge ts h)
  · exact sim.guarded h (sim.reset h)
  · rw [hf, hf]
    exact .intro (sim.refuse h)
  · rw [hf, hf]
    exact sim.guarded h (sim.blind hb h)

theorem Simulation.runWord (w : Nat) (h : R s t) : RelatedNext R (runWord w s) (runWord w t) := by
  obtain ⟨x, rfl⟩ := sim.hidden h
  unfold Machine.runWord
  rw [withSampler_cfg]
  split
  · exact sim.exec _ h
  · exact .intro (sim.refuse h)

theorem Simulation.passStep (h : R s t) : RelatedNext R (passStep s) (passStep t) := by
  obtain ⟨x, rfl⟩ := sim.hidden h
  unfold Machine.passStep
  rw [withSampler_cphase]
  split
  · exact .intro h
  · rw [withSampler_cfg, slotGet_withSampler]
    split
    · split
      · exact sim.exec _ h
      · exact sim.guarded h (sim.blind blind_skipStep h)
    · exact sim.guarded h (sim.blind (blind_endPass _) h)

theorem Simulation.agentStep (a : Agent) (h : R s t) : RelatedNext R (agentStep a s) (agentStep a t) := by
  obtain ⟨x, rfl⟩ := sim.hidden h
  unfold Machine.agentStep
  rw [offered_withSampler, show inPass (withSampler x s) = inPass s from rfl]
  split
  · exact sim.passStep h
  · split
    · exact .intro h
    · exact sim.runWord _ (sim.blind (blind_setPort a _) h)

/-- The commuting diagram of a step: whichever agent moves, related states take steps to related states. -/
theorem Simulation.step (h : R s t) : RelatedNext R (step s) (step t) := by
  obtain ⟨x, rfl⟩ := sim.hidden h
  unfold Machine.step
  rw [nextTurn_withSampler, withSampler_schedule]
  split
  · exact .intro h
  · exact sim.agentStep _ (sim.blind (blind_setSchedule _) h)

end

/-- A blind effect keeps the sampler's registers and the mark. -/
theorem Blind.eq_withSampler {f : State → State} (hf : Blind f) (s : State) : f s = withSampler s (f s) := hf s s

/-! ### The refusal mark -/

/-- `s` with the refusal mark `m`. -/
def setMark (m : Bool) (s : State) : State := { s with refusedMark := m }

/-- `t` is `s` but for the refusal mark. -/
def EqButMark (s t : State) : Prop := ∃ m, t = setMark m s

theorem edgeSample_setMark (ts delta : Nat) (m : Bool) (s : State) :
    edgeSample ts delta (setMark m s) = setMark m (edgeSample ts delta s) := by
  simp only [edgeSample, finalize, apply_ite (setMark m)]
  rfl

theorem edgeStep_setMark (ts : Nat) (m : Bool) (s : State) :
    edgeStep ts (setMark m s) = setMark m (edgeStep ts s) := by
  simp only [edgeStep, apply_ite (setMark m), ← edgeSample_setMark]
  rfl

theorem simulation_eqButMark : Simulation EqButMark where
  hidden := by
    rintro s _ ⟨m, rfl⟩
    exact ⟨setMark m s, rfl⟩
  blind := by
    rintro f s _ hf ⟨m, rfl⟩
    refine ⟨m, ?_⟩
    rw [hf.eq_withSampler s]
    exact hf (setMark m s) s
  refuse := by
    rintro s _ ⟨m, rfl⟩
    exact ⟨true, rfl⟩
  edge := by
    rintro s _ ts ⟨m, rfl⟩
    exact ⟨m, edgeStep_setMark ts m s⟩
  reset := by
    rintro s _ ⟨m, rfl⟩
    exact ⟨m, rfl⟩

/-- Settles O14: equality but for the mark is a simulation, so a step keeps it. -/
theorem refusedMarkIsNeverRead : Obligations.RefusedMarkIsNeverRead := by
  intro s t m h
  have hsteps := simulation_eqButMark.step (s := s) ⟨m, rfl⟩
  rw [h] at hsteps
  obtain ⟨u, hu, m', rfl⟩ := hsteps.exists_next
  exact ⟨m', hu⟩

/-! ### Stale samples -/

/-- Two interval buffers agree below `n`. -/
def AgreeBelow (n : Nat) (a b : List Nat) : Prop := ∀ k < n, a.getD k 0 = b.getD k 0

theorem AgreeBelow.set {n : Nat} {a b : List Nat} (h : AgreeBelow n a b) (hl : a.length = b.length) (x : Nat) :
    AgreeBelow (n + 1) (a.set n x) (b.set n x) := by
  intro k hk
  rcases Nat.lt_succ_iff_lt_or_eq.mp hk with hlt | rfl
  · simpa [List.getD_eq_getElem?_getD, List.getElem?_set_ne (Nat.ne_of_gt hlt)] using h k hlt
  · have hiff : k < a.length ↔ k < b.length := by rw [hl]
    simp only [List.getD_eq_getElem?_getD, List.getElem?_set, if_true, hiff]

theorem AgreeBelow.eq {a b : List Nat} (h : AgreeBelow a.length a b) (hl : a.length = b.length) : a = b := by
  refine List.ext_getElem hl fun k ha hb => ?_
  simpa [List.getD_eq_getElem?_getD, ha, hb] using h k ha

/-- `s` with the interval buffer `iv`. -/
def setIv (iv : List Nat) (s : State) : State := { s with iv := iv }

/-- The branches of an EDGE step do not read the interval buffer, and only a stored sample writes it. -/
theorem edgeStep_setIv (ts : Nat) (iv : List Nat) (s : State) :
    edgeStep ts (setIv iv s) =
      if s.synced = false then
        if s.cfg.gapThreshold < deltaOf ts s then setIv iv (edgeSync ts { s with lastTs := ts })
        else setIv iv (edgeIgnored { s with lastTs := ts })
      else if s.cfg.gapThreshold < deltaOf ts s then setIv iv (edgeResync ts { s with lastTs := ts })
      else edgeSample ts (deltaOf ts s) (setIv iv { s with lastTs := ts }) := rfl

/-- `t` is `s` but for samples at or past `count`; both buffers have their size and `count` is in its range. -/
def EqButStale (s t : State) : Prop :=
  s.iv.length = 35 ∧ s.count ≤ 34 ∧ ∃ iv, t = setIv iv s ∧ iv.length = 35 ∧ AgreeBelow s.count iv s.iv

theorem EqButStale.refl {s : State} (hl : s.iv.length = 35) (hc : s.count ≤ 34) : EqButStale s s :=
  ⟨hl, hc, s.iv, rfl, hl, fun _ _ => rfl⟩

/-- The sample that completes a frame completes a buffer of which every entry was written in this frame. -/
theorem storeSample_setIv_of_full {s : State} {iv : List Nat} (delta : Nat) (hl : s.iv.length = 35) (hc : s.count = 34)
    (hl' : iv.length = 35) (ha : AgreeBelow s.count iv s.iv) : storeSample delta (setIv iv s) = storeSample delta s := by
  have hset := ha.set (hl'.trans hl.symm) (delta / s.cfg.ratio)
  have hiv : iv.set s.count (delta / s.cfg.ratio) = s.iv.set s.count (delta / s.cfg.ratio) :=
    AgreeBelow.eq (by rwa [List.length_set, hl', show 35 = s.count + 1 by rw [hc]]) (by simp [hl, hl'])
  exact congrArg (fun v => setIv v (storeSample delta s)) hiv

theorem edgeSample_stale {s : State} {iv : List Nat} (ts delta : Nat) (hl : s.iv.length = 35) (hc : s.count ≤ 34)
    (hl' : iv.length = 35) (ha : AgreeBelow s.count iv s.iv) :
    EqButStale (edgeSample ts delta s) (edgeSample ts delta (setIv iv s)) := by
  rcases Nat.lt_or_ge (s.count + 1) 35 with hlt | hge
  · have e : ∀ v, edgeSample ts delta (setIv v s) = setLabel (storeSample delta (setIv v s)) (some (.edge .sample)) :=
      fun _ => if_pos hlt
    rw [e iv, show edgeSample ts delta s = _ from e s.iv]
    exact ⟨by rw [← hl]; exact List.length_set, Nat.le_of_lt_succ hlt, iv.set s.count (delta / s.cfg.ratio), rfl,
      by rwa [List.length_set], ha.set (hl'.trans hl.symm) _⟩
  · have hst := storeSample_setIv_of_full delta hl (by omega) hl' ha
    have hlen : (storeSample delta s).iv.length = 35 := by simpa using hl
    rw [show edgeSample ts delta (setIv iv s) = edgeSample ts delta s by rw [edgeSample, hst, edgeSample]]
    rcases edgeSample_cases ts delta s with ⟨hlt, _⟩ | ⟨_, _, e⟩ | ⟨_, _, e⟩
    · omega
    · exact e ▸ .refl hlen (Nat.zero_le _)
    · exact e ▸ .refl hlen (Nat.zero_le _)

theorem edgeStep_stale {s t : State} (ts : Nat) (h : EqButStale s t) : EqButStale (edgeStep ts s) (edgeStep ts t) := by
  obtain ⟨hl, hc, iv, rfl, hl', ha⟩ := h
  have hnone : AgreeBelow 0 iv s.iv := fun _ h => absurd h (Nat.not_lt_zero _)
  rw [edgeStep_setIv, edgeStep]
  split_ifs with hsync hgap hgap
  · exact ⟨hl, Nat.zero_le _, iv, rfl, hl', hnone⟩
  · exact ⟨hl, hc, iv, rfl, hl', ha⟩
  · exact ⟨hl, Nat.zero_le _, iv, rfl, hl', hnone⟩
  · exact edgeSample_stale (s := { s with lastTs := ts }) ts _ hl hc hl' ha

theorem simulation_eqButStale : Simulation EqButStale where
  hidden := by
    rintro s _ ⟨_, _, iv, rfl, _⟩
    exact ⟨setIv iv s, rfl⟩
  blind := by
    rintro f s _ hf ⟨hl, hc, iv, rfl, hl', ha⟩
    rw [hf.eq_withSampler s]
    exact ⟨hl, hc, iv, hf (setIv iv s) s, hl', ha⟩
  refuse := by
    rintro s _ ⟨hl, hc, iv, rfl, h⟩
    exact ⟨hl, hc, iv, rfl, h⟩
  edge := edgeStep_stale
  reset := by
    rintro s _ ⟨_, _, iv, rfl, _⟩
    exact ⟨rfl, Nat.zero_le _, List.replicate 35 0, rfl, rfl, fun _ h => absurd h (Nat.not_lt_zero _)⟩

/-- Settles O27: equality but for stale samples is a simulation, and it bounds `count` and keeps the size of the buffer. -/
theorem staleSamplesAreNeverRead : Obligations.StaleSamplesAreNeverRead := by
  intro s t iv hl hl' hc ha h
  have hsteps := simulation_eqButStale.step (s := s) ⟨hl, hc, iv, rfl, hl', ha⟩
  rw [h] at hsteps
  obtain ⟨u, hu, hlt, hct, iv', rfl, h'⟩ := hsteps.exists_next
  exact ⟨hlt, hct, iv', hu, h'⟩

end Sys2Proof.Machine

/-! PROOFS. Decoding: whatever class name a telegram is run by, the class writes the fields that 42_decoder.md R113 to R121 give
for its raw bits and kind, so its meaning is the slot step of R125. -/

namespace Sys2Proof.Machine

/-- The sMM2 map by code is the map by `RAW[11] RAW[13] RAW[15]` (30_encoding.md R76), over default extended fields. -/
theorem extMap_eq_table (raw : RawBits) {d : Derived} (hf : d.extFuncIndex = .none) (ho : d.extFuncOn = false)
    (hd : d.extDir = .none) :
    extMap raw d = { d with
      extFuncIndex := tableFunc raw
      extFuncOn := decide (tableFunc raw ≠ .none) && rawBit raw 17
      extDir := tableDir raw } := by
  have hd' : d = { d with extFuncIndex := .none, extFuncOn := false, extDir := .none } := by rw [← hf, ← ho, ← hd]
  rw [hd']
  -- The table has a row for each value of the four bits.
  cases h11 : rawBit raw 11 <;> cases h13 : rawBit raw 13 <;> cases h15 : rawBit raw 15 <;> cases h17 : rawBit raw 17 <;>
    simp [extMap, extCode, rawNat, tableFunc, tableDir, setExtFunc, setExtDir, h11, h13, h15, h17]

theorem magnetFields_eq_derivedOf (c : Config) {raw : RawBits} (h : rawBit raw 8 = false) :
    magnetFields raw (commonFields c raw) = derivedOf c .magnet raw := by
  simp [magnetFields, commonFields, derivedOf, Derived.default, h]

theorem commonFields_eq_derivedOf (c : Config) {raw : RawBits} (h : rawBit raw 8 = true) :
    commonFields c raw = derivedOf c .magnet raw := by
  simp [commonFields, derivedOf, Derived.default, h]

theorem speedFields_eq (n : Nat) {d : Derived} (hp : d.speedStep = 0#4) (hs : d.stop = false) (hd : d.dirChange = false) :
    speedFields n d = { d with
      speedStep := if 2 ≤ n then BitVec.ofNat 4 (n - 1) else 0#4
      stop := decide (n = 0)
      dirChange := decide (n = 1) } := by
  obtain ⟨_, _, _, _, _, _, _, _, _, _, _⟩ := d
  subst hp hs hd
  match n with
  | 0 => rfl
  | 1 => rfl
  | n + 2 => simp [speedFields, setSpeed]

theorem locFields_eq_derivedOf (c : Config) (raw : RawBits) :
    extFields raw (speedFields (speedCode raw) (locFields c raw)) = derivedOf c .locomotive raw := by
  rw [speedFields_eq _ rfl rfl rfl, extFields]
  cases he : ext raw with
  | true =>
    rw [if_pos rfl, extMap_eq_table raw rfl rfl rfl]
    simp [locFields, setFunction, commonFields, derivedOf, Derived.default, he]
  | false => simp [locFields, setFunction, commonFields, derivedOf, Derived.default, he]

/-- The base classes of a locomotive telegram differ in their speed part only (30_encoding.md R78). -/
theorem exec_locClass {n : Nat} (hn : n < 16) (raw : RawBits) (s : State) :
    exec (locClass n raw) s = decodesLoc (speedFields n) raw s := by
  interval_cases n <;> rfl

theorem exec_baseClass_locomotive (raw : RawBits) (s : State) :
    exec (baseClass .locomotive raw) s = decodes (derivedOf s.cfg .locomotive raw) raw s := by
  rw [← locFields_eq_derivedOf]
  exact exec_locClass (speedCode_lt raw) raw s

/-- The extended sub-classes differ in their extended part only (30_encoding.md R76, R78). -/
theorem exec_extClass_eq (raw : RawBits) (s : State) : exec (extClass raw) s = decodesExt (extMap raw) raw s := by
  have hlt := extCode_lt raw
  unfold extClass
  rw [show extMap raw = fun d => extMap raw d from rfl]
  unfold extMap
  generalize extCode raw = n at hlt
  interval_cases n <;> rfl

theorem exec_extClass {raw : RawBits} (h : ext raw = true) (s : State) :
    exec (extClass raw) s = decodes (derivedOf s.cfg .locomotive raw) raw s := by
  rw [exec_extClass_eq, ← locFields_eq_derivedOf, extFields, if_pos h]
  rfl

theorem exec_baseClass_magnet {raw : RawBits} (h : rawBit raw 8 = false) (s : State) :
    exec (baseClass .magnet raw) s = decodes (derivedOf s.cfg .magnet raw) raw s := by
  rw [baseClass, h, ← magnetFields_eq_derivedOf s.cfg h]
  rfl

theorem exec_baseClass_magnet_bad {raw : RawBits} (h : rawBit raw 8 = true) (s : State) :
    exec (baseClass .magnet raw) s = guarded s (slotStep (finishInvalid (derivedOf s.cfg .magnet raw)) s) := by
  rw [baseClass, h, ← commonFields_eq_derivedOf s.cfg h]
  rfl

theorem mem_classesOf {p : Instr} {k : Kind} {raw : RawBits} :
    p ∈ classesOf k raw ↔ p = baseClass k raw ∨ (k = .locomotive ∧ ext raw = true) ∧ p = extClass raw := by
  unfold classesOf
  split <;> simp [*]

theorem decodeTelegram_mem_classesOf (k : Kind) (raw : RawBits) : decodeTelegram k raw ∈ classesOf k raw := by
  unfold decodeTelegram
  split
  · next h => exact mem_classesOf.2 (.inr ⟨⟨h.1, h.2.1⟩, rfl⟩)
  · exact mem_classesOf.2 (.inl rfl)

theorem decodeFails_eq_true {k : Kind} {raw : RawBits} (h : decodeFails k raw = true) :
    k = .magnet ∧ rawBit raw 8 = true := by
  simpa [decodeFails] using h

/-- A class of a telegram whose decode does not fail writes the fields the telegram gives. -/
theorem exec_class_of_not_fails {p : Instr} {k : Kind} {raw : RawBits} (hp : p ∈ classesOf k raw)
    (hd : decodeFails k raw = false) (s : State) : exec p s = decodes (derivedOf s.cfg k raw) raw s := by
  rcases mem_classesOf.1 hp with rfl | ⟨⟨rfl, he⟩, rfl⟩
  · cases k with
    | locomotive => exact exec_baseClass_locomotive raw s
    | magnet => exact exec_baseClass_magnet (by simpa [decodeFails] using hd) s
  · exact exec_extClass he s

/-- The class of a telegram whose decode fails marks the slot Invalid. -/
theorem exec_class_of_fails {p : Instr} {k : Kind} {raw : RawBits} (hp : p ∈ classesOf k raw)
    (hd : decodeFails k raw = true) (s : State) :
    exec p s = guarded s (slotStep (finishInvalid (derivedOf s.cfg k raw)) s) := by
  obtain ⟨rfl, h8⟩ := decodeFails_eq_true hd
  rcases mem_classesOf.1 hp with rfl | ⟨⟨hk, _⟩, _⟩
  · exact exec_baseClass_magnet_bad h8 s
  · cases hk

/-- Whatever class name the telegram of a ReadyToDecode slot is run by, its meaning is the slot step of 42_decoder.md R125. -/
theorem exec_class_eq_slotStepSpec {s : State} {i : Nat} {b : Bool} {p : Instr} (h : ReadyAt s i b)
    (hp : p ∈ classesOf (slotGet s i).kind (slotGet s i).raw) : exec p s = .next (slotStepSpec s i b) := by
  rw [slotStepSpec, if_pos h.ready]
  cases hd : decodeFails (slotGet s i).kind (slotGet s i).raw with
  | false => exact (exec_class_of_not_fails hp hd s).trans (decodes_ready _ _ h)
  | true =>
    rw [exec_class_of_fails hp hd s, guarded_of_wf _ h.cfg_wf, slotStep_ready _ h]
    rfl

end Sys2Proof.Machine

/-! PROOFS. What a step does to the registers and the queue, once for all agents, and the invariants that follow. -/

namespace Sys2Proof.Machine

/-! ### The parts of a step -/

/-- A predicate that every part of a step keeps: taking the turn and the word, a refusal, a decoded request, and the CONSUMER's
own step in a pass. -/
structure KeptByParts (P : State → Prop) : Prop where
  turn : ∀ {s} rest, P s → P { s with schedule := rest }
  word : ∀ {s} a ws, P s → P (setPort s a ws)
  refuse : ∀ {s}, P s → P (refuse s)
  request : ∀ {s u w i}, P s → decodeCmd s.cfg.tsWidth w = .ok i → exec i s = .next u → P u
  pass : ∀ {s u}, P s → passStep s = .next u → P u

theorem KeptByParts.step {P : State → Prop} (kept : KeptByParts P) {s t : State} (hs : P s)
    (h : step s = .next t) : P t := by
  rcases step_cases h with ⟨_, rfl⟩ | ⟨rest, _, _, h⟩ | ⟨a, rest, w, ws, _, _, _, _, h⟩
  · exact hs
  · exact kept.pass (kept.turn rest hs) h
  · have hw := kept.word a ws (kept.turn rest hs)
    rcases runWord_cases h with ⟨i, hi, h⟩ | ⟨_, _, rfl⟩
    · exact kept.request hw hi h
    · exact kept.refuse hw

/-- The registers of the block outside the slots, the cursor and the ports, with the configuration. -/
structure Registers where
  cfg : Config
  lastTs : Nat
  syncTs : Nat
  synced : Bool
  count : Nat
  iv : List Nat
  wp : Nat

def registersOf (s : State) : Registers := ⟨s.cfg, s.lastTs, s.syncTs, s.synced, s.count, s.iv, s.wp⟩

def SameRegisters (s u : State) : Prop := registersOf u = registersOf s

theorem SameRegisters.cfg {s u : State} (h : SameRegisters s u) : u.cfg = s.cfg := congrArg Registers.cfg h
theorem SameRegisters.iv {s u : State} (h : SameRegisters s u) : u.iv = s.iv := congrArg Registers.iv h
theorem SameRegisters.wp {s u : State} (h : SameRegisters s u) : u.wp = s.wp := congrArg Registers.wp h

theorem SameRegisters.setPort (s : State) (a : Agent) (ws : List Nat) : SameRegisters s (setPort s a ws) := by
  cases a <;> exact rfl

/-- A request keeps the registers and the slots, and issues a pass or keeps the cursor, unless it is EDGE or RESET. -/
theorem exec_request_cases {i : Instr} {s u : State} (hi : formatOf i = .cmd) (h : exec i s = .next u) :
    (SameRegisters s u ∧ u.slots = s.slots ∧ (u.cphase = s.cphase ∨ ∃ b, u.cphase = .pass 0 b)) ∨
    (∃ ts, i = .edge ts ∧ u = edgeStep ts s) ∨ (i = .reset ∧ u = resetRegisters s) := by
  rcases exec_effect h with rfl | ⟨_, _, rfl⟩ | ⟨ts, he, rfl⟩ | ⟨p, _, hp, rfl⟩ | ⟨r, _, rfl⟩ | ⟨hr, rfl⟩ |
    ⟨_, _, hd, _⟩ | ⟨_, hd, _⟩
  · exact .inl ⟨rfl, rfl, .inl rfl⟩
  · exact .inl ⟨rfl, rfl, .inl rfl⟩
  · exact .inr (.inl ⟨ts, he, rfl⟩)
  · exact .inl ⟨rfl, rfl, .inr (hp.elim (⟨false, ·⟩) (⟨true, ·⟩))⟩
  · exact .inl ⟨rfl, rfl, .inl rfl⟩
  · exact .inr (.inr ⟨hr, rfl⟩)
  · rw [hi] at hd
    cases hd
  · rw [hi] at hd
    cases hd

theorem passStep_of_idle {s : State} (h : s.cphase = .idle) : passStep s = .next s := by
  rw [passStep, h]

/-- The CONSUMER's own step is a refusal, or the slot step of 42_decoder.md R125, or the end of the pass. -/
theorem passStep_next {s u : State} (hlen : s.slots.length = s.cfg.capacity) (h : passStep s = .next u) :
    (s.cphase = .idle ∧ u = s) ∨ (s.cfg.wf = false ∧ u = refuse s) ∨
    (∃ i b, s.cphase = .pass i b ∧ i < s.cfg.capacity ∧ u = slotStepSpec s i b) ∨
    (∃ i b, s.cphase = .pass i b ∧ s.cfg.capacity ≤ i ∧ u = endPass b s) := by
  cases hp : s.cphase with
  | idle =>
    exact .inl ⟨rfl, Host.Outcome.next.inj (h.symm.trans (passStep_of_idle hp))⟩
  | pass i b =>
    cases hw : s.cfg.wf with
    | false =>
      refine .inr (.inl ⟨rfl, ?_⟩)
      rcases passStep_cases hp h with ⟨_, _, h⟩ | ⟨_, _, h⟩ | ⟨_, h⟩
      · simpa [exec_of_not_wf _ hw] using h.symm
      · simpa [passSkip, guarded_of_not_wf _ hw] using h.symm
      · simpa [guarded_of_not_wf _ hw] using h.symm
    | true =>
      rcases passStep_cases hp h with ⟨hi, hr, h⟩ | ⟨hi, hr, h⟩ | ⟨hi, h⟩
      · rw [exec_class_eq_slotStepSpec ⟨hw, hlen, hp, hi, hr⟩ (decodeTelegram_mem_classesOf _ _)] at h
        exact .inr (.inr (.inl ⟨i, b, rfl, hi, by simpa using h.symm⟩))
      · rw [passSkip, guarded_of_wf _ hw, skipStep, hp] at h
        refine .inr (.inr (.inl ⟨i, b, rfl, hi, ?_⟩))
        rw [slotStepSpec, if_neg hr]
        exact (Host.Outcome.next.inj h).symm
      · rw [guarded_of_wf _ hw] at h
        exact .inr (.inr (.inr ⟨i, b, rfl, hi, by simpa using h.symm⟩))

/-- What the CONSUMER's own steps may write over a slot record `r`: the result of a decode, or the mark of a slot that POLL
returned. -/
inductive ConsumerWrite (c : Config) (r : Slot) : Slot → Prop where
  | decoded (st : Lifecycle) (hst : st = .decoded ∨ st = .validated) (hr : r.state = .readyToDecode)
      (hd : decodeFails r.kind r.raw = false) :
      ConsumerWrite c r { r with derived := derivedOf c r.kind r.raw, state := st }
  | invalid (hr : r.state = .readyToDecode) (hd : decodeFails r.kind r.raw = true) :
      ConsumerWrite c r { r with derived := derivedOf c r.kind r.raw, state := .invalid }
  | consumed (hr : r.state = .validated) : ConsumerWrite c r (toConsumed r)

/-- `u` is `s` after at most one write of the CONSUMER in the slots. -/
def SlotsAfterConsumer (s u : State) : Prop :=
  u.slots = s.slots ∨
  ∃ i r, i < s.slots.length ∧ ConsumerWrite s.cfg (slotGet s i) r ∧ u.slots = s.slots.set i r

theorem slotStepSpec_writes {s : State} {i : Nat} (b : Bool) (hi : i < s.slots.length) :
    SameRegisters s (slotStepSpec s i b) ∧ SlotsAfterConsumer s (slotStepSpec s i b) := by
  simp only [slotStepSpec]
  split
  · next hr =>
    split
    · next hd => exact ⟨rfl, .inr ⟨i, _, hi, .invalid hr hd, rfl⟩⟩
    · next hd =>
      refine ⟨rfl, .inr ⟨i, _, hi, .decoded _ ?_ hr (by simpa using hd), rfl⟩⟩
      cases confirmed s i (slotGet s i).raw
      · exact .inl rfl
      · exact .inr rfl
  · exact ⟨rfl, .inl rfl⟩

theorem endPass_writes (b : Bool) (s : State) : SameRegisters s (endPass b s) ∧ SlotsAfterConsumer s (endPass b s) := by
  cases b with
  | false => exact ⟨rfl, .inl rfl⟩
  | true =>
    simp only [endPass, selectStep, if_true]
    split
    · next i hi =>
      obtain ⟨hlt, hv, _⟩ := firstValidated_some hi
      exact ⟨rfl, .inr ⟨i, _, hlt, .consumed hv, rfl⟩⟩
    · exact ⟨rfl, .inl rfl⟩

/-- The CONSUMER's own step keeps the registers and writes at most one slot. -/
theorem passStep_writes {s u : State} (hlen : s.slots.length = s.cfg.capacity) (h : passStep s = .next u) :
    SameRegisters s u ∧ SlotsAfterConsumer s u := by
  rcases passStep_next hlen h with ⟨_, rfl⟩ | ⟨_, rfl⟩ | ⟨i, b, _, hi, rfl⟩ | ⟨i, b, _, _, rfl⟩
  · exact ⟨rfl, .inl rfl⟩
  · exact ⟨rfl, .inl rfl⟩
  · exact slotStepSpec_writes b (hlen ▸ hi)
  · exact endPass_writes b s

/-! ### The refusal mark -/

/-- A blind effect keeps the mark, and a refusal sets it. -/
theorem Blind.guarded_refusedMark {f : State → State} (hf : Blind f) {s u : State} (hm : s.refusedMark = true)
    (h : guarded s (f s) = .next u) : u.refusedMark = true := by
  rcases guarded_next h with ⟨_, rfl⟩ | ⟨_, rfl⟩
  · rw [hf.eq_withSampler s]
    exact hm
  · rfl

/-- The mark is written by a refusal only, which sets it. -/
theorem exec_keeps_refusedMark {i : Instr} {s u : State} (hm : s.refusedMark = true) (h : exec i s = .next u) :
    u.refusedMark = true := by
  rcases exec_cases_blind i with ⟨ts, rfl⟩ | rfl | hf | ⟨f, hb, hf⟩
  · rcases guarded_next h with ⟨_, rfl⟩ | ⟨_, rfl⟩
    · obtain ⟨-, -, -, hmark, -⟩ := edgeStep_frame ts s
      rw [hmark, hm]
    · rfl
  · rcases guarded_next h with ⟨_, rfl⟩ | ⟨_, rfl⟩
    · exact hm
    · rfl
  · rw [hf] at h
    cases h
    rfl
  · rw [hf] at h
    exact hb.guarded_refusedMark hm h

/-- Every part of a step keeps the mark set. -/
theorem refusedMark_kept : KeptByParts fun s => s.refusedMark = true where
  turn _ h := h
  word a ws h := by rwa [setPort_refusedMark]
  refuse _ := rfl
  request h _ he := exec_keeps_refusedMark h he
  pass {s u} h hp := by
    cases hc : s.cphase with
    | idle =>
      rw [passStep_of_idle hc] at hp
      cases hp
      exact h
    | pass i b =>
      rcases passStep_cases hc hp with ⟨_, _, he⟩ | ⟨_, _, hs⟩ | ⟨_, he⟩
      · exact exec_keeps_refusedMark h he
      · exact blind_skipStep.guarded_refusedMark h hs
      · exact (blind_endPass b).guarded_refusedMark h he

/-- Settles O13: RESET keeps the mark, and whatever else a step does keeps it or sets it. -/
theorem refusedMarkIsNeverCleared : Obligations.RefusedMarkIsNeverCleared :=
  ⟨rfl, fun _ _ h hm => refusedMark_kept.step hm h⟩

/-! ### The queue invariant -/

theorem QueueInv.length_eq {s : State} (h : QueueInv s) : s.slots.length = s.cfg.capacity := ((storesWf_iff s).1 h.stores).1

theorem QueueInv.wp_lt_length {s : State} (h : QueueInv s) : s.wp < s.slots.length := by
  rw [h.length_eq]
  exact h.wp_lt

theorem QueueInv.next_lt_length {s : State} (h : QueueInv s) : nextIndex s.cfg.capacity s.wp < s.slots.length := by
  rw [h.length_eq]
  exact nextIndex_lt _ (Nat.zero_lt_of_lt h.wp_lt)

/-- The queue invariant reads the configuration, the size of the buffer, the write pointer, and the number and lifecycle
states of the slots. -/
theorem QueueInv.congr {s u : State} (h : QueueInv s) (hr : SameRegisters s u) (hlen : u.slots.length = s.slots.length)
    (hst : ∀ i < s.cfg.capacity, ((slotGet u i).state = .capturing ↔ (slotGet s i).state = .capturing)) : QueueInv u where
  stores := by
    rw [storesWf_iff, hlen, hr.cfg, hr.iv]
    exact (storesWf_iff s).1 h.stores
  wp_lt := by
    rw [hr.wp, hr.cfg]
    exact h.wp_lt
  capturing i hi := by
    rw [hr.cfg] at hi
    rw [hst i hi, hr.wp]
    exact h.capturing i hi

theorem QueueInv.of_slots_eq {s u : State} (h : QueueInv s) (hr : SameRegisters s u) (hs : u.slots = s.slots) : QueueInv u :=
  h.congr hr (congrArg _ hs) fun i _ => by rw [slotGet_of_slots hs]

/-- The CONSUMER neither takes a slot from the sampler nor gives it one (20_memory.md R54). -/
theorem ConsumerWrite.not_capturing {c : Config} {r r' : Slot} (h : ConsumerWrite c r r') :
    r.state ≠ .capturing ∧ r'.state ≠ .capturing := by
  cases h with
  | decoded st hst hr => rcases hst with rfl | rfl <;> simp [hr]
  | invalid hr => simp [hr]
  | consumed hr => simp [hr, toConsumed]

theorem QueueInv.afterConsumer {s u : State} (h : QueueInv s) (hr : SameRegisters s u) (hs : SlotsAfterConsumer s u) :
    QueueInv u := by
  rcases hs with hs | ⟨i, r, hi, hw, hs⟩
  · exact h.of_slots_eq hr hs
  · refine h.congr hr (by rw [hs, List.length_set]) fun j _ => ?_
    rw [slotGet_of_set hs hi]
    split
    · next hj => simp [hj, hw.not_capturing]
    · rfl

theorem QueueInv.edgeStep {s : State} (ts : Nat) (h : QueueInv s) : QueueInv (edgeStep ts s) := by
  obtain ⟨hcfg, -, -, -, -, -, -, -, hslen, hivlen⟩ := edgeStep_frame ts s
  constructor
  case stores =>
    rw [storesWf_iff, hcfg, hslen, hivlen]
    exact (storesWf_iff s).1 h.stores
  all_goals rw [hcfg]; rcases edgeStep_queue ts s with ⟨hslots, hwp, _⟩ | ⟨_, hwp, hslots⟩ <;> rw [hwp]
  · exact h.wp_lt
  · exact h.length_eq ▸ h.next_lt_length
  · intro i hi
    rw [slotGet_of_slots hslots]
    exact h.capturing i hi
  · intro i hi
    rw [slotGet_of_slots hslots, slotGet_enqueue _ h.wp_lt_length h.next_lt_length]
    split
    · next hw => simp [toCapturing, hw]
    · next hw =>
      split
      · simp [fillSlot, hw]
      · next hne => simp [h.capturing i hi, hne, hw]

theorem QueueInv.resetOf {c : Config} (hc : 0 < c.capacity) : QueueInv (State.resetOf c) where
  stores := storesWf_resetOf c
  wp_lt := hc
  capturing i hi := by
    rw [slotGet_of_initial rfl hi]
    cases i <;> simp [Slot.initial, State.resetOf]

theorem queueInv_kept : KeptByParts QueueInv where
  turn _ h := h.of_slots_eq rfl rfl
  word a ws h := h.of_slots_eq (.setPort _ a ws) (setPort_slots _ a ws)
  refuse h := h.of_slots_eq rfl rfl
  request {s u w i} h hd he := by
    rcases exec_request_cases (formatOf_decodeCmd hd) he with ⟨hr, hs, _⟩ | ⟨ts, _, rfl⟩ | ⟨_, rfl⟩
    · exact h.of_slots_eq hr hs
    · exact h.edgeStep ts
    · exact (QueueInv.resetOf (Nat.zero_lt_of_lt h.wp_lt)).of_slots_eq rfl rfl
  pass h hp := by
    obtain ⟨hr, hs⟩ := passStep_writes h.length_eq hp
    exact h.afterConsumer hr hs

/-- Settles O52: every part of a step keeps the queue invariant. -/
theorem stepKeepsTheQueueInvariant : Obligations.StepKeepsTheQueueInvariant :=
  fun _ _ hs h => queueInv_kept.step hs h

end Sys2Proof.Machine

/-! PROOFS. The invariant of the block and the transitions of a slot's state (10_state.md R28 to R45), from what each part of a
step does to the registers, the cursor and the slots. -/

namespace Sys2Proof.Machine

/-! ### The sampler's registers -/

/-- The sampler invariant but for the durations, which are a matter of the slots. -/
structure RegistersInv (r : Registers) : Prop where
  lastTs_lt : r.lastTs < 2 ^ r.cfg.tsWidth
  syncTs_lt : r.syncTs < 2 ^ r.cfg.tsWidth
  count_le : r.count ≤ 34
  unsynced_count : r.synced = false → r.count = 0
  samples_le : ∀ x ∈ r.iv, x ≤ 2 ^ r.cfg.sampleWidth - 1

/-- The operand of a command word fits in `TS_WIDTH` bits (30_encoding.md R61, R64). -/
theorem lt_of_decodeCmd_edge {t w ts : Nat} (h : decodeCmd t w = .ok (.edge ts)) : ts < 2 ^ t := by
  unfold decodeCmd at h
  split at h
  · next hw =>
    rw [Laws.WordFits.four_bits_above] at hw
    unfold decodeOp zeroOperand at h
    repeat' split at h
    all_goals cases h
    exact Nat.div_lt_of_lt_mul (Nat.mul_comm _ _ ▸ hw)
  · cases h

/-- A stored sample never exceeds `2^W - 1` (40_sampler.md R87). -/
theorem sample_le {c : Config} {delta : Nat} (hc : c.wf = true) (hd : delta ≤ c.gapThreshold) :
    delta / c.ratio ≤ 2 ^ c.sampleWidth - 1 := by
  obtain ⟨-, -, -, -, -, hfits, -⟩ := (wellFormedConfigurationConditions c).1 hc
  exact (Nat.div_le_div_right hd).trans hfits

theorem RegistersInv.edgeSample {s : State} (ts : Nat) {delta : Nat} (hc : s.cfg.wf = true) (hs : s.synced = true)
    (hd : delta ≤ s.cfg.gapThreshold) (h : RegistersInv (registersOf s)) :
    RegistersInv (registersOf (edgeSample ts delta s)) := by
  have hsamples : ∀ x ∈ (storeSample delta s).iv, x ≤ 2 ^ s.cfg.sampleWidth - 1 := fun x hx =>
    (List.mem_or_eq_of_mem_set hx).elim (h.samples_le x) (· ▸ sample_le hc hd)
  rcases edgeSample_cases ts delta s with ⟨hlt, e⟩ | ⟨_, _, e⟩ | ⟨_, _, e⟩ <;> rw [e]
  · exact ⟨h.lastTs_lt, h.syncTs_lt, Nat.le_of_lt_succ hlt, fun hf => absurd (hs.symm.trans hf) nofun, hsamples⟩
  · exact ⟨h.lastTs_lt, h.syncTs_lt, Nat.zero_le _, fun _ => rfl, hsamples⟩
  · exact ⟨h.lastTs_lt, h.syncTs_lt, Nat.zero_le _, fun _ => rfl, hsamples⟩

theorem RegistersInv.edgeStep {s : State} {ts : Nat} (hc : s.cfg.wf = true) (hts : ts < 2 ^ s.cfg.tsWidth)
    (h : RegistersInv (registersOf s)) : RegistersInv (registersOf (edgeStep ts s)) := by
  rcases edgeStep_cases ts s with ⟨_, _, e⟩ | ⟨_, _, e⟩ | ⟨_, _, e⟩ | ⟨hs, hd, e⟩ <;> rw [e]
  · exact ⟨hts, hts, Nat.zero_le _, fun _ => rfl, h.samples_le⟩
  · exact ⟨hts, h.syncTs_lt, h.count_le, h.unsynced_count, h.samples_le⟩
  · exact ⟨hts, hts, Nat.zero_le _, fun _ => rfl, h.samples_le⟩
  · exact RegistersInv.edgeSample (s := { s with lastTs := ts }) ts hc hs hd
      ⟨hts, h.syncTs_lt, h.count_le, h.unsynced_count, h.samples_le⟩

theorem RegistersInv.resetOf (c : Config) : RegistersInv (registersOf (State.resetOf c)) where
  lastTs_lt := Nat.two_pow_pos _
  syncTs_lt := Nat.two_pow_pos _
  count_le := Nat.zero_le _
  unsynced_count _ := rfl
  samples_le x hx := by
    rw [List.eq_of_mem_replicate hx]
    exact Nat.zero_le _

/-! ### The slots -/

/-- What the invariant says of a slot record by itself: its duration, its processed fields and its speed step. -/
structure SlotInv (c : Config) (r : Slot) : Prop where
  dur_lt : r.dur < 2 ^ c.tsWidth
  decoded : SlotDecoded c r
  speed_le : r.derived.speedStep.toNat ≤ 14

theorem inv_iff {s : State} : Machine.Inv s ↔ s.cfg.wf = true ∧ QueueInv s ∧ RegistersInv (registersOf s) ∧ CursorInv s ∧
    ∀ r ∈ s.slots, SlotInv s.cfg r := by
  constructor
  · rintro ⟨hc, hq, ⟨h1, h2, h3, h4, h5, hdur⟩, hcur, hdec, hspeed⟩
    exact ⟨hc, hq, ⟨h1, h2, h3, h4, h5⟩, hcur, fun r hr => ⟨hdur r hr, hdec r hr, hspeed r hr⟩⟩
  · rintro ⟨hc, hq, ⟨h1, h2, h3, h4, h5⟩, hcur, hslots⟩
    exact ⟨hc, hq, ⟨h1, h2, h3, h4, h5, fun r hr => (hslots r hr).dur_lt⟩, hcur,
      fun r hr => (hslots r hr).decoded, fun r hr => (hslots r hr).speed_le⟩

theorem speedStep_derivedOf_le (c : Config) (k : Kind) (raw : RawBits) : (derivedOf c k raw).speedStep.toNat ≤ 14 := by
  have hlt := speedCode_lt raw
  simp only [derivedOf]
  split
  · rw [BitVec.toNat_ofNat, Nat.mod_eq_of_lt (by omega)]
    omega
  · exact Nat.zero_le _

/-- In a slot that is Capturing or ReadyToDecode nothing is said of the derived fields. -/
theorem slotDecoded_of_unprocessed {c : Config} {r : Slot} (h : r.state = .capturing ∨ r.state = .readyToDecode) :
    SlotDecoded c r := by
  rcases h with h | h <;> simp [SlotDecoded, h]

theorem SlotInv.initial (c : Config) {st : Lifecycle} (h : st = .capturing ∨ st = .consumed) :
    SlotInv c (Slot.initial st) where
  dur_lt := Nat.two_pow_pos _
  decoded := by
    rcases h with rfl | rfl
    · exact slotDecoded_of_unprocessed (.inl rfl)
    · exact ⟨nofun, nofun, fun _ => .inl rfl⟩
  speed_le := Nat.zero_le _

theorem SlotInv.fillSlot {c : Config} {r : Slot} {f : Frame} (h : SlotInv c r) (hf : f.dur < 2 ^ c.tsWidth) :
    SlotInv c (fillSlot f r) :=
  ⟨hf, slotDecoded_of_unprocessed (.inr rfl), h.speed_le⟩

theorem SlotInv.toCapturing {c : Config} {r : Slot} (h : SlotInv c r) : SlotInv c (toCapturing r) :=
  ⟨h.dur_lt, slotDecoded_of_unprocessed (.inl rfl), h.speed_le⟩

/-- A decode writes what the raw bits and kind give, and POLL takes a slot that holds it (42_decoder.md R113, R122,
43_consumer.md R136). -/
theorem SlotInv.afterConsumer {c : Config} {r r' : Slot} (h : SlotInv c r) (hw : ConsumerWrite c r r') : SlotInv c r' := by
  cases hw with
  | decoded st hst hr hd =>
    refine ⟨h.dur_lt, ?_, speedStep_derivedOf_le c r.kind r.raw⟩
    rcases hst with rfl | rfl
    · exact ⟨fun _ => ⟨hd, rfl⟩, nofun, nofun⟩
    · exact ⟨fun _ => ⟨hd, rfl⟩, nofun, nofun⟩
  | invalid hr hd => exact ⟨h.dur_lt, ⟨nofun, fun _ => ⟨hd, rfl⟩, nofun⟩, speedStep_derivedOf_le c r.kind r.raw⟩
  | consumed hr => exact ⟨h.dur_lt, ⟨nofun, nofun, fun _ => .inr (h.decoded.1 (.inr hr))⟩, h.speed_le⟩

theorem forall_slots_set {P : Slot → Prop} {l : List Slot} {i : Nat} {r : Slot} (h : ∀ x ∈ l, P x) (hr : P r) :
    ∀ x ∈ l.set i r, P x := fun x hx => (List.mem_or_eq_of_mem_set hx).elim (h x) (· ▸ hr)

theorem slotInv_enqueue {s : State} {f : Frame} (hq : QueueInv s) (h : ∀ r ∈ s.slots, SlotInv s.cfg r)
    (hf : f.dur < 2 ^ s.cfg.tsWidth) : ∀ r ∈ (enqueue f s).slots, SlotInv s.cfg r := by
  have hfilled : ∀ r ∈ (slotSet s s.wp (fillSlot f (slotGet s s.wp))).slots, SlotInv s.cfg r :=
    forall_slots_set h ((h _ (slotGet_mem s hq.wp_lt_length)).fillSlot hf)
  refine forall_slots_set hfilled (hfilled _ (slotGet_mem _ ?_)).toCapturing
  rw [slotSet_slots, List.length_set]
  exact hq.next_lt_length

theorem slotInv_edgeStep {s : State} (ts : Nat) (hq : QueueInv s) (h : ∀ r ∈ s.slots, SlotInv s.cfg r) :
    ∀ r ∈ (edgeStep ts s).slots, SlotInv s.cfg r := by
  rcases edgeStep_queue ts s with ⟨hs, _⟩ | ⟨_, _, hs⟩ <;> rw [hs]
  · exact h
  · exact slotInv_enqueue hq h (tsSub_lt _ _ _)

theorem slotInv_afterConsumer {s u : State} (h : ∀ r ∈ s.slots, SlotInv s.cfg r) (hs : SlotsAfterConsumer s u) :
    ∀ r ∈ u.slots, SlotInv s.cfg r := by
  rcases hs with hs | ⟨i, r, hi, hw, hs⟩ <;> rw [hs]
  · exact h
  · exact forall_slots_set h ((h _ (slotGet_mem s hi)).afterConsumer hw)

theorem slotInv_initialSlots (c : Config) (n : Nat) : ∀ r ∈ initialSlots n, SlotInv c r := by
  intro r hr
  obtain ⟨i, _, rfl⟩ := List.mem_map.1 hr
  refine .initial c ?_
  split
  · exact .inl rfl
  · exact .inr rfl

/-! ### The cursor -/

theorem slotStepSpec_cphase (s : State) (i : Nat) (b : Bool) : (slotStepSpec s i b).cphase = .pass (i + 1) b := by
  simp only [slotStepSpec]
  split
  · split <;> rfl
  · rfl

theorem endPass_cphase (b : Bool) (s : State) : (endPass b s).cphase = .idle := by
  cases b with
  | false => rfl
  | true =>
    simp only [endPass, selectStep, if_true]
    split <;> rfl

theorem cursorInv_of_idle {s : State} (h : s.cphase = .idle) : CursorInv s := by
  intro i b hp
  rw [h] at hp
  cases hp

theorem cursorInv_of_pass {s : State} {i : Nat} {b : Bool} (h : s.cphase = .pass i b) (hi : i ≤ s.cfg.capacity) :
    CursorInv s := by
  intro i b hp
  rw [h] at hp
  cases hp
  exact hi

theorem CursorInv.congr {s u : State} (h : CursorInv s) (hp : u.cphase = s.cphase) (hc : u.cfg = s.cfg) : CursorInv u := by
  intro i b hi
  rw [hc]
  exact h i b (hp ▸ hi)

theorem CursorInv.passStep {s u : State} (h : CursorInv s) (hlen : s.slots.length = s.cfg.capacity)
    (hp : passStep s = .next u) : CursorInv u := by
  obtain ⟨hr, -⟩ := passStep_writes hlen hp
  rcases passStep_next hlen hp with ⟨_, rfl⟩ | ⟨_, rfl⟩ | ⟨i, b, _, hi, rfl⟩ | ⟨i, b, _, _, rfl⟩
  · exact h
  · exact h
  · exact cursorInv_of_pass (slotStepSpec_cphase s i b) (hr.cfg ▸ hi)
  · exact cursorInv_of_idle (endPass_cphase b s)

/-! ### The whole invariant -/

theorem inv_resetOf {c : Config} (hc : c.wf = true) : Machine.Inv (State.resetOf c) := by
  obtain ⟨hcap, -⟩ := (wellFormedConfigurationConditions c).1 hc
  exact inv_iff.2 ⟨hc, .resetOf hcap, .resetOf c, cursorInv_of_idle rfl, slotInv_initialSlots c c.capacity⟩

theorem Inv.of_sameRegisters {s u : State} (h : Machine.Inv s) (hr : SameRegisters s u) (hq : QueueInv u)
    (hcur : CursorInv u) (hs : ∀ r ∈ u.slots, SlotInv s.cfg r) : Machine.Inv u := by
  obtain ⟨hc, -, hreg, -, -⟩ := inv_iff.1 h
  refine inv_iff.2 ⟨hr.cfg ▸ hc, hq, ?_, hcur, hr.cfg ▸ hs⟩
  rwa [show registersOf u = registersOf s from hr]

theorem Inv.of_slots_eq {s u : State} (h : Machine.Inv s) (hr : SameRegisters s u) (hs : u.slots = s.slots)
    (hcur : CursorInv u) : Machine.Inv u := by
  obtain ⟨-, hq, -, -, hslots⟩ := inv_iff.1 h
  exact h.of_sameRegisters hr (hq.of_slots_eq hr hs) hcur (hs ▸ hslots)

theorem Inv.edgeStep {s : State} {ts : Nat} (h : Machine.Inv s) (hts : ts < 2 ^ s.cfg.tsWidth) :
    Machine.Inv (edgeStep ts s) := by
  obtain ⟨hc, hq, hreg, hcur, hslots⟩ := inv_iff.1 h
  obtain ⟨hcfg, hphase, -⟩ := edgeStep_frame ts s
  exact inv_iff.2 ⟨hcfg ▸ hc, hq.edgeStep ts, hreg.edgeStep hc hts, hcur.congr hphase hcfg,
    hcfg ▸ slotInv_edgeStep ts hq hslots⟩

theorem inv_kept : KeptByParts Machine.Inv where
  turn _ h := h.of_slots_eq rfl rfl h.cursor
  word a ws h := h.of_slots_eq (.setPort _ a ws) (setPort_slots _ a ws)
    (h.cursor.congr (setPort_cphase _ a ws) (setPort_cfg _ a ws))
  refuse h := h.of_slots_eq rfl rfl h.cursor
  request {s u w i} h hd he := by
    rcases exec_request_cases (formatOf_decodeCmd hd) he with ⟨hr, hs, hp | ⟨b, hp⟩⟩ | ⟨ts, rfl, rfl⟩ | ⟨_, rfl⟩
    · exact h.of_slots_eq hr hs (h.cursor.congr hp hr.cfg)
    · exact h.of_slots_eq hr hs (cursorInv_of_pass hp (Nat.zero_le _))
    · exact h.edgeStep (lt_of_decodeCmd_edge hd)
    · exact (inv_resetOf h.cfg_wf).of_slots_eq rfl rfl (cursorInv_of_idle rfl)
  pass {s u} h hp := by
    obtain ⟨hc, hq, -, hcur, hslots⟩ := inv_iff.1 h
    obtain ⟨hr, hs⟩ := passStep_writes hq.length_eq hp
    exact h.of_sameRegisters hr (hq.afterConsumer hr hs) (hcur.passStep hq.length_eq hp) (slotInv_afterConsumer hslots hs)

/-- Settles O53: every part of a step keeps the invariant, by the registers, the cursor and the slots. -/
theorem stepKeepsTheInvariant : Obligations.StepKeepsTheInvariant :=
  fun _ _ hs h => inv_kept.step hs h

end Sys2Proof.Machine

/-! PROOFS. The transitions of a slot's state (10_state.md R45), by the agent that takes the step. -/

namespace Sys2Proof.Machine

theorem slotStepSpec_of_not_ready {s : State} {i : Nat} (b : Bool) (hr : (slotGet s i).state ≠ .readyToDecode) :
    slotStepSpec s i b = afterSkip s i b := if_neg hr

theorem slotStepSpec_of_fails {s : State} {i : Nat} (b : Bool) (hr : (slotGet s i).state = .readyToDecode)
    (hd : decodeFails (slotGet s i).kind (slotGet s i).raw = true) :
    slotStepSpec s i b = afterInvalid s i b (derivedOf s.cfg (slotGet s i).kind (slotGet s i).raw) :=
  (if_pos hr).trans (if_pos hd)

theorem slotStepSpec_of_not_fails {s : State} {i : Nat} (b : Bool) (hr : (slotGet s i).state = .readyToDecode)
    (hd : decodeFails (slotGet s i).kind (slotGet s i).raw = false) :
    slotStepSpec s i b =
      afterDecode s i b (slotGet s i).raw (derivedOf s.cfg (slotGet s i).kind (slotGet s i).raw) :=
  (if_pos hr).trans (if_neg (Bool.eq_false_iff.1 hd))

theorem slotGet_afterInvalid {s : State} {i : Nat} (b : Bool) (d : Derived) (hi : i < s.slots.length) (j : Nat) :
    slotGet (afterInvalid s i b d) j =
      if j = i then { slotGet s i with derived := d, state := .invalid } else slotGet s j :=
  slotGet_of_set rfl hi j

theorem slotGet_afterDecode {s : State} {i : Nat} (b : Bool) (raw : RawBits) (d : Derived) (hi : i < s.slots.length)
    (j : Nat) :
    slotGet (afterDecode s i b raw d) j =
      if j = i then { slotGet s i with derived := d, state := if confirmed s i raw then .validated else .decoded }
      else slotGet s j :=
  slotGet_of_set rfl hi j

/-- A slot step decodes the slot of the cursor and leaves the state of every other slot. -/
theorem transition_of_slotStep {s : State} {i : Nat} {b : Bool} (rest : List Agent) (turn : ConsumerTurn s)
    (hp : s.cphase = .pass i b) (hi : i < s.slots.length) (j : Nat) :
    Transition s (slotStepSpec { s with schedule := rest } i b) j := by
  have who : SlotTurn s (slotStepSpec { s with schedule := rest } i b) i := ⟨turn, b, hp, slotStepSpec_cphase _ i b⟩
  by_cases hr : (slotGet s i).state = .readyToDecode
  case neg =>
    rw [slotStepSpec_of_not_ready (s := { s with schedule := rest }) b hr]
    exact .stays rfl
  cases hd : decodeFails (slotGet s i).kind (slotGet s i).raw with
  | true =>
    rw [slotStepSpec_of_fails (s := { s with schedule := rest }) b hr hd] at who ⊢
    have hget (d : Derived) := slotGet_afterInvalid (s := { s with schedule := rest }) b d hi j
    by_cases hj : j = i
    · subst hj
      exact .invalid who hr (by rw [hget, if_pos rfl]) hd
    · exact .stays (by rw [hget, if_neg hj]; rfl)
  | false =>
    rw [slotStepSpec_of_not_fails (s := { s with schedule := rest }) b hr hd] at who ⊢
    have hget (raw : RawBits) (d : Derived) := slotGet_afterDecode (s := { s with schedule := rest }) b raw d hi j
    by_cases hj : j = i
    · subst hj
      cases hc : confirmed s j (slotGet s j).raw with
      | true => exact .validated who hr (by rw [hget, if_pos rfl]; exact if_pos hc) hd hc
      | false => exact .decoded who hr (by rw [hget, if_pos rfl]; exact if_neg (Bool.eq_false_iff.1 hc)) hd hc
    · exact .stays (by rw [hget, if_neg hj]; rfl)

theorem selectStep_of_some {s : State} {i : Nat} (h : firstValidated s = some i) :
    selectStep s = setLabel (setPhase .idle
      (respond (slotSet s i (toConsumed (slotGet s i))) (.pollSome (snapshot (slotGet s i))))) (some (.select .consumed)) := by
  rw [selectStep, h]

theorem selectStep_of_none {s : State} (h : firstValidated s = none) :
    selectStep s = setLabel (setPhase .idle (respond s .pollNone)) (some (.select .none)) := by
  rw [selectStep, h]

/-- The end of a pass takes the first Validated slot if the pass was POLL's, and no other. -/
theorem transition_of_endPass {s : State} {b : Bool} (rest : List Agent) (turn : ConsumerTurn s)
    (hp : s.cphase = .pass s.cfg.capacity b) (j : Nat) : Transition s (endPass b { s with schedule := rest }) j := by
  cases b with
  | false => exact .stays rfl
  | true =>
    cases hf : firstValidated s with
    | none =>
      rw [show endPass true { s with schedule := rest } = _ from selectStep_of_none hf]
      exact .stays rfl
    | some i =>
      obtain ⟨hi, hv, hfirst⟩ := firstValidated_some hf
      rw [show endPass true { s with schedule := rest } = _ from selectStep_of_some hf]
      have hget (k : Nat) : slotGet (slotSet s i (toConsumed (slotGet s i))) k = if k = i then _ else _ :=
        slotGet_of_set rfl hi k
      by_cases hj : j = i
      · subst hj
        exact .consumed turn hp rfl hv (congrArg Slot.state ((hget j).trans (if_pos rfl))) hfirst
      · exact .stays (congrArg Slot.state ((hget j).trans (if_neg hj)))

/-- An accepted EDGE changes the state of the write slot and of the next one, and any other EDGE of none. -/
theorem transition_of_edge {s : State} {a : Agent} {rest : List Agent} {ws : List Nat} {ts : Nat} (h : QueueInv s)
    (who : TookWord s (edgeStep ts (setPort { s with schedule := rest } a ws)) (.edge ts)) (j : Nat) :
    Transition s (edgeStep ts (setPort { s with schedule := rest } a ws)) j := by
  have hq : QueueInv (setPort { s with schedule := rest } a ws) := queueInv_kept.word a ws (queueInv_kept.turn rest h)
  rcases edgeStep_queue ts (setPort { s with schedule := rest } a ws) with ⟨hs, _⟩ | ⟨hl, _, hs⟩
  · exact .stays (by rw [slotGet_of_slots hs, slotGet_setPort]; rfl)
  · have hget := slotGet_enqueue (acceptedFrame (setPort { s with schedule := rest } a ws) ts) hq.wp_lt_length
      hq.next_lt_length j
    rw [← slotGet_of_slots hs] at hget
    simp only [setPort_cfg, setPort_wp, slotGet_setPort] at hget
    by_cases hj : j = nextIndex s.cfg.capacity s.wp
    · exact .takenOver ts ⟨who, hl⟩ (by rw [hget, if_pos hj]; rfl) hj
    · rw [if_neg hj] at hget
      by_cases hw : j = s.wp
      · exact .accepted ts ⟨who, hl⟩ (hw ▸ (h.capturing s.wp h.wp_lt).2 rfl) (by rw [hget, if_pos hw]; rfl) hw
      · exact .stays (by rw [hget, if_neg hw]; rfl)

/-- Settles O54: each agent's step by its own lemma. -/
theorem onlyTheListedTransitions : Obligations.OnlyTheListedTransitions := by
  intro s t hinv h
  rcases step_took h with ⟨_, rfl⟩ | ⟨rest, hn, _, hp⟩ | ⟨i, took⟩ | ⟨a, rest, w, ws, _, _, _, _, _, rfl⟩
  · exact .inl fun j _ => .stays rfl
  · have turn : ConsumerTurn s := ⟨rest, hn⟩
    rcases passStep_next (s := { s with schedule := rest }) hinv.queue.length_eq hp with
      ⟨_, rfl⟩ | ⟨_, rfl⟩ | ⟨i, b, hph, hi, rfl⟩ | ⟨i, b, hph, hi, rfl⟩
    · exact .inl fun j _ => .stays rfl
    · exact .inl fun j _ => .stays rfl
    · exact .inl fun j _ => transition_of_slotStep rest turn hph (hinv.queue.length_eq ▸ hi) j
    · obtain rfl : i = s.cfg.capacity := Nat.le_antisymm (hinv.cursor i b hph) hi
      exact .inl fun j _ => transition_of_endPass rest turn hph j
  · have took' := took
    obtain ⟨a, rest, w, ws, _, _, _, _, hd, he⟩ := took'
    rcases exec_request_cases (formatOf_decodeCmd hd) he with ⟨_, hs, _⟩ | ⟨ts, rfl, rfl⟩ | ⟨rfl, rfl⟩
    · exact .inl fun j _ => .stays (by rw [slotGet_of_slots hs, slotGet_setPort]; rfl)
    · exact .inl fun j _ => transition_of_edge hinv.queue took j
    · exact .inr ⟨took, fun j hj => slotGet_of_initial (by rw [resetRegisters_slots, setPort_cfg]) hj⟩
  · exact .inl fun j _ => .stays (by rw [slotGet_refuse, slotGet_setPort]; rfl)

end Sys2Proof.Machine

/-! PROOFS. The turns of the agents and the pass cursor (20_memory.md R51 to R53): what the step of a turn runs, what a request
does to the cursor and the responses, and that a pass leaves no slot to decode behind. -/

namespace Sys2Proof.Machine

/-! ### The agents' turns -/

theorem step_of_turn {s : State} {a : Agent} {rest : List Agent} (h : nextTurn s s.schedule = some (a, rest)) :
    step s = agentStep a { s with schedule := rest } := by
  rw [step, h]

theorem offered_of_not_held {s : State} {a : Agent} {w : Nat} {ws : List Nat} (hp : portOf s a = w :: ws)
    (hh : held s w = false) : offered s a = some (w, ws) := by
  simp [offered, hp, hh]

theorem offered_setSchedule (s : State) (rest : List Agent) (a : Agent) :
    offered { s with schedule := rest } a = offered s a := by
  cases a <;> rfl

theorem enabled_setSchedule (s : State) (sched : List Agent) (a : Agent) :
    enabled { s with schedule := sched } a = enabled s a := by
  rw [enabled, offered_setSchedule]
  rfl

/-- No agent moves exactly when none has a step. -/
theorem nextTurn_eq_none_iff {s : State} {sched : List Agent} :
    nextTurn s sched = none ↔ ∀ a, enabled s a = false := by
  induction sched with
  | nil =>
    constructor
    · intro h a
      rw [nextTurn, Option.map_eq_none_iff] at h
      unfold defaultTurn at h
      split_ifs at h with hreset hedge hconsumer
      cases a with
      | edge => exact Bool.eq_false_iff.2 hedge
      | consumer => exact Bool.eq_false_iff.2 hconsumer
      | reset => exact Bool.eq_false_iff.2 hreset
    · intro h
      simp [nextTurn, defaultTurn, h]
  | cons a as ih =>
    rw [nextTurn]
    split
    · next he => simpa using ⟨a, he⟩
    · exact ih

theorem enabled_consumer_of_pass {s : State} (h : s.cphase ≠ .idle) : enabled s .consumer = true := by
  simp [enabled, inPass, h]

theorem idle_of_nextTurn_eq_none {s : State} (h : nextTurn s s.schedule = none) : s.cphase = .idle := by
  by_contra hp
  exact absurd (enabled_consumer_of_pass hp) (Bool.eq_false_iff.1 (nextTurn_eq_none_iff.1 h .consumer))

/-- A turn that the CONSUMER has in a pass is a turn of the pass. -/
theorem passStep_of_consumerTurn {s t : State} (turn : ConsumerTurn s) (hp : s.cphase ≠ .idle) (h : step s = .next t) :
    ∃ rest, passStep { s with schedule := rest } = .next t := by
  obtain ⟨rest, hn⟩ := turn
  rw [step_of_turn hn, agentStep, if_pos ⟨rfl, by simpa [inPass] using hp⟩] at h
  exact ⟨rest, h⟩

theorem agentStep_of_word {s : State} {a : Agent} {w : Nat} {ws : List Nat} (hc : ¬(a = .consumer ∧ s.cphase ≠ .idle))
    (ho : offered s a = some (w, ws)) : agentStep a s = runWord w (setPort s a ws) := by
  rw [agentStep, if_neg (by simpa [inPass] using hc), ho]

/-- Settles O44: the agent's port offers the word, and the word is decoded and run. -/
theorem stepRunsTheRequestAtThePort : Obligations.StepRunsTheRequestAtThePort := by
  intro s a rest w ws i hn hc hp hh hd
  have hoffered : offered { s with schedule := rest } a = some (w, ws) := by
    rw [offered_setSchedule, offered_of_not_held hp hh]
  rw [step_of_turn hn, agentStep_of_word (s := { s with schedule := rest }) hc hoffered, runWord, setPort_cfg, hd]

/-- Settles O45: the CONSUMER's turn goes on with the pass, whose cursor names a slot to decode. -/
theorem stepRunsTheTelegramOfTheSlot : Obligations.StepRunsTheTelegramOfTheSlot := by
  intro s rest i b hn hp hi hr
  have hpass : inPass s = true := by simp [inPass, hp]
  rw [step_of_turn hn, agentStep, if_pos ⟨rfl, hpass⟩, passStep, hp]
  exact (if_pos hi).trans (if_pos hr)

/-- Settles O47: the schedule is not read to see whether an agent has a step, so its first agent with one moves. -/
theorem anyEnabledAgentMayMoveNext : Obligations.AnyEnabledAgentMayMoveNext := by
  intro s a rest h
  exact step_of_turn (nextTurn_cons rest ((enabled_setSchedule s (a :: rest) a).trans h))

/-! ### The cursor and the responses -/

/-- What a request does to the pass cursor and, in a pass, to the responses. -/
inductive RequestCursor (s u : State) : Instr → Prop where
  | stays {i : Instr} (hn : u.cphase = s.cphase) (hr : s.cphase ≠ .idle → u.responses = s.responses) : RequestCursor s u i
  | issuedDecode (ho : s.cphase = .idle) (hn : u.cphase = .pass 0 false) (hr : u.responses = s.responses) :
      RequestCursor s u .decodePass
  | issuedPoll (ho : s.cphase = .idle) (hn : u.cphase = .pass 0 true) (hr : u.responses = s.responses) :
      RequestCursor s u .poll
  | reset (hn : u.cphase = .idle) (hr : u.responses = s.responses) : RequestCursor s u .reset

theorem RequestCursor.refused (i : Instr) (s : State) : RequestCursor s (refuse s) i := .stays rfl fun _ => rfl

/-- A consumer request that waits leaves the cursor and the responses. -/
theorem RequestCursor.of_whenIdle {i : Instr} {s t u : State} (h : guarded s (whenIdle s t) = .next u)
    (ht : s.cphase = .idle → RequestCursor s t i) : RequestCursor s u i := by
  rcases guarded_next h with ⟨_, rfl⟩ | ⟨_, rfl⟩
  · by_cases hp : s.cphase = .idle
    · rw [whenIdle_of_idle t hp]
      exact ht hp
    · rw [whenIdle_of_pass t hp]
      exact .stays rfl fun _ => rfl
  · exact .refused i s

theorem exec_requestCursor {i : Instr} {s u : State} (hi : formatOf i = .cmd) (h : exec i s = .next u) :
    RequestCursor s u i := by
  cases i with
  | edge ts =>
    rcases guarded_next h with ⟨_, rfl⟩ | ⟨_, rfl⟩
    · obtain ⟨-, hphase, hresp, -⟩ := edgeStep_frame ts s
      exact .stays hphase fun _ => hresp
    · exact .refused _ s
  | decodePass => exact .of_whenIdle h fun hp => .issuedDecode hp rfl rfl
  | poll => exact .of_whenIdle h fun hp => .issuedPoll hp rfl rfl
  | slotAt idx => exact .of_whenIdle h fun hp => .stays rfl (absurd hp)
  | writePtr => exact .of_whenIdle h fun hp => .stays rfl (absurd hp)
  | reset =>
    rcases guarded_next h with ⟨_, rfl⟩ | ⟨_, rfl⟩
    · exact .reset rfl rfl
    · exact .refused _ s
  | reserved0x0 _ | reserved0x7 _ | reserved0x8To0xF _ _ =>
    cases h
    exact .refused _ s
  | mag _ | magBad _ | locStop _ | locDirChg _ | locSpeed2 _ | locSpeed3 _ | locSpeed4 _ | locSpeed5 _ | locSpeed6 _
  | locSpeed7 _ | locSpeed8 _ | locSpeed9 _ | locSpeed10 _ | locSpeed11 _ | locSpeed12 _ | locSpeed13 _ | locSpeed14 _
  | locSpeed15 _ | extNop01 _ | extFunc2 _ | extFwd _ | extFunc3 _ | extNop89 _ | extBwd _ | extFunc1 _ | extFunc4 _ =>
    cases hi

theorem slotStepSpec_responses (s : State) (i : Nat) (b : Bool) : (slotStepSpec s i b).responses = s.responses := by
  simp only [slotStepSpec]
  split
  · split <;> rfl
  · rfl

/-- The end of a pass gives exactly one response, of the kind of its request (42_decoder.md R111, 43_consumer.md R136). -/
theorem endPass_responses (b : Bool) (s : State) :
    ∃ r, (endPass b s).responses = s.responses ++ [r] ∧ endsPass b r := by
  cases b with
  | false => exact ⟨.done, rfl, rfl⟩
  | true =>
    rw [show endPass true s = selectStep s from rfl]
    cases hf : firstValidated s with
    | none => exact ⟨.pollNone, by rw [selectStep_of_none hf]; rfl, .inl rfl⟩
    | some i => exact ⟨.pollSome (snapshot (slotGet s i)), by rw [selectStep_of_some hf]; rfl, .inr ⟨_, rfl⟩⟩

/-- A step that leaves the cursor leaves it at Idle, or is another agent's step in a pass. -/
theorem CursorMove.of_same {s t : State} (who : s.cphase ≠ .idle → ¬ConsumerTurn s) (hn : t.cphase = s.cphase)
    (hr : s.cphase ≠ .idle → t.responses = s.responses) : CursorMove s t := by
  cases hp : s.cphase with
  | idle => exact .idle hp (hn.trans hp)
  | pass i b =>
    have hne : s.cphase ≠ .idle := by simp [hp]
    exact .preempted i b (who hne) hp (hn.trans hp) (hr hne)

theorem CursorMove.of_took {s t : State} {i : Instr} (took : TookWord s t i) : CursorMove s t := by
  have took' := took
  obtain ⟨a, rest, w, ws, -, -, -, -, -, he⟩ := took'
  have hc := exec_requestCursor took.format_eq he
  generalize hs : setPort { s with schedule := rest } a ws = s' at hc
  have hphase : s'.cphase = s.cphase := by rw [← hs, setPort_cphase]
  have hresp : s'.responses = s.responses := by rw [← hs, setPort_responses]
  cases hc with
  | stays hn hr => exact .of_same took.not_consumerTurn (hn.trans hphase) fun hp => (hr (hphase ▸ hp)).trans hresp
  | issuedDecode ho hn hr => exact .issuedDecode took (hphase ▸ ho) hn (hr.trans hresp)
  | issuedPoll ho hn hr => exact .issuedPoll took (hphase ▸ ho) hn (hr.trans hresp)
  | reset hn hr =>
    cases hp : s.cphase with
    | idle => exact .idle hp hn
    | pass i b => exact .reset i b took hp hn (hr.trans hresp)

/-- A turn of the CONSUMER in a pass is a slot step, or the end of the pass. -/
theorem CursorMove.of_passStep {s t : State} {rest : List Agent} (hinv : Machine.Inv s) (turn : ConsumerTurn s)
    (hne : s.cphase ≠ .idle) (hp : passStep { s with schedule := rest } = .next t) : CursorMove s t := by
  rcases passStep_next (s := { s with schedule := rest }) hinv.queue.length_eq hp with
    ⟨hidle, _⟩ | ⟨hw, _⟩ | ⟨i, b, hph, hi, rfl⟩ | ⟨i, b, hph, hi, rfl⟩
  · exact absurd hidle hne
  · exact absurd (hinv.cfg_wf.symm.trans hw) nofun
  · exact .slotStep i b turn hph hi (slotStepSpec_cphase _ i b) (slotStepSpec_responses _ i b)
  · obtain rfl : i = s.cfg.capacity := Nat.le_antisymm (hinv.cursor i b hph) hi
    obtain ⟨r, hr, hk⟩ := endPass_responses b { s with schedule := rest }
    exact .passEnd b r turn hph (endPass_cphase b _) hr hk

theorem cursorMove_of_step {s t : State} (hinv : Machine.Inv s) (h : step s = .next t) : CursorMove s t := by
  rcases step_took h with ⟨hn, rfl⟩ | ⟨rest, hn, hne, hp⟩ | ⟨i, took⟩ | ⟨a, rest, w, ws, e, hn, hc, _, _, rfl⟩
  · exact .idle (idle_of_nextTurn_eq_none hn) (idle_of_nextTurn_eq_none hn)
  · exact .of_passStep hinv ⟨rest, hn⟩ hne hp
  · exact .of_took took
  · refine .of_same (fun hp ⟨rest', hn'⟩ => ?_) (by simp) (by simp)
    rw [hn] at hn'
    cases hn'
    exact hc ⟨rfl, hp⟩

/-! ### The slots behind the cursor -/

theorem slotStepSpec_not_ready {s : State} {i : Nat} (b : Bool) (hi : i < s.slots.length) :
    (slotGet (slotStepSpec s i b) i).state ≠ .readyToDecode := by
  by_cases hr : (slotGet s i).state = .readyToDecode
  · cases hd : decodeFails (slotGet s i).kind (slotGet s i).raw with
    | true => simp [slotStepSpec_of_fails b hr hd, slotGet_afterInvalid b _ hi]
    | false =>
      rw [slotStepSpec_of_not_fails b hr hd, slotGet_afterDecode b _ _ hi, if_pos rfl]
      dsimp only
      split <;> nofun
  · rw [slotStepSpec_of_not_ready b hr]
    exact hr

/-- The slot step that moves the cursor past a slot leaves nothing to decode in it (42_decoder.md R112, R125). -/
theorem not_ready_of_slotTurn {s t : State} {i : Nat} (hinv : Machine.Inv s) (h : step s = .next t)
    (who : SlotTurn s t i) : (slotGet t i).state ≠ .readyToDecode := by
  obtain ⟨turn, b, hph, hph'⟩ := who
  obtain ⟨rest, hp⟩ := passStep_of_consumerTurn turn (by simp [hph]) h
  rcases passStep_next (s := { s with schedule := rest }) hinv.queue.length_eq hp with
    ⟨hidle, _⟩ | ⟨hw, _⟩ | ⟨j, b', hphj, hj, rfl⟩ | ⟨_, b', _, _, rfl⟩
  · cases hph.symm.trans hidle
  · exact absurd (hinv.cfg_wf.symm.trans hw) nofun
  · cases hph.symm.trans hphj
    exact slotStepSpec_not_ready b (hinv.queue.length_eq ▸ hj)
  · cases hph'.symm.trans (endPass_cphase b' _)

/-- A slot becomes ReadyToDecode only when a frame is accepted into it (10_state.md R45). -/
theorem ready_before_or_accepted {s t : State} {j : Nat} (hinv : Machine.Inv s) (h : step s = .next t)
    (hj : j < s.cfg.capacity) (hr : (slotGet t j).state = .readyToDecode) :
    (slotGet s j).state = .readyToDecode ∨ ∃ ts, AcceptedEdge s t ts ∧ j = s.wp := by
  rcases onlyTheListedTransitions s t hinv h with htr | ⟨_, hinit⟩
  · cases htr j hj with
    | stays he => exact .inl (he.symm.trans hr)
    | accepted ts who _ _ hw => exact .inr ⟨ts, who, hw⟩
    | takenOver _ _ hn | decoded _ _ hn | validated _ _ hn | invalid _ _ hn | consumed _ _ _ _ hn =>
      cases hn.symm.trans hr
  · rw [hinit j hj] at hr
    cases j <;> cases hr

/-- A slot that is behind the cursor after a step was behind it before, or is the slot of the slot step just taken. -/
theorem CursorMove.behind {s t : State} {i j : Nat} {b : Bool} (move : CursorMove s t) (hp : t.cphase = .pass i b)
    (hj : j < i) : SlotTurn s t j ∨ ∃ k, s.cphase = .pass k b ∧ j < k := by
  cases move with
  | idle _ hn | passEnd _ _ _ _ hn | reset _ _ _ _ hn => cases hn.symm.trans hp
  | issuedDecode _ _ hn | issuedPoll _ _ hn =>
    cases hn.symm.trans hp
    exact absurd hj (Nat.not_lt_zero j)
  | slotStep k _ who ho _ hn =>
    cases hn.symm.trans hp
    rcases Nat.lt_succ_iff_lt_or_eq.1 hj with hlt | rfl
    · exact .inr ⟨k, ho, hlt⟩
    · exact .inl ⟨who, b, ho, hn⟩
  | preempted k _ _ ho hn =>
    cases hn.symm.trans hp
    exact .inr ⟨i, ho, hj⟩

/-- A step keeps a pass clean but for the slot that it accepts a frame into. -/
theorem PassClean.step {s t : State} {fresh fresh' : List Nat} (hinv : Machine.Inv s) (h : step s = .next t)
    (clean : PassClean s fresh) (hsub : fresh ⊆ fresh') (hnew : ∀ ts, AcceptedEdge s t ts → s.wp ∈ fresh') :
    PassClean t fresh' := by
  intro i b hp j hj hr
  rcases (cursorMove_of_step hinv h).behind hp hj with who | ⟨k, ho, hk⟩
  · exact absurd hr (not_ready_of_slotTurn hinv h who)
  · rcases ready_before_or_accepted hinv h (hk.trans_le (hinv.cursor k b ho)) hr with hr' | ⟨ts, who, rfl⟩
    · exact hsub (clean k b ho j hk hr')
    · exact hnew ts who

/-- Settles O60: the moves of the cursor by who takes the step, and the slots behind it by the listed transitions. -/
theorem cursorMovesByTurnsAndLeavesNoSlotBehind : Obligations.CursorMovesByTurnsAndLeavesNoSlotBehind := by
  intro s t hinv h
  refine ⟨cursorMove_of_step hinv h, fun fresh clean => ⟨fun ts _ => ?_, fun hnone => ?_⟩⟩
  · exact clean.step hinv h (List.subset_cons_self _ _) fun _ _ => List.mem_cons_self
  · exact clean.step hinv h (List.Subset.refl _) fun ts who => absurd who (hnone ts)

end Sys2Proof.Machine

/-! PROOFS. What each part of the block writes in the queue (20_memory.md R48, R54, R55, 41_queue.md R106). -/

namespace Sys2Proof.Machine

/-! ### The byte image of raw -/

/-- A byte of the image packs the bits from `RAW[8b + 7]` up to `RAW[8b]`. -/
theorem imageByte_eq_packNat (raw : RawBits) (b : Nat) :
    imageByte raw b = BitVec.ofNat 8 (packNat ((List.range 8).map fun k => rawBit raw (8 * b + (7 - k)))) := by
  rw [imageByte]
  congr 1
  simp only [show List.range 8 = [0, 1, 2, 3, 4, 5, 6, 7] from rfl, List.map_cons, List.map_nil, packNat, rawNat,
    Nat.reduceSub, Nat.add_zero]
  omega

theorem imageByte_getLsbD (raw : RawBits) (b : Nat) {j : Nat} (hj : j < 8) :
    (imageByte raw b).getLsbD (7 - j) = rawBit raw (8 * b + j) := by
  have hk : 7 - j < 8 := by omega
  have hback : 7 - (7 - j) = j := by omega
  rw [imageByte_eq_packNat, BitVec.getLsbD_ofNat, packNat_testBit]
  simp [List.getD_eq_getElem?_getD, hk, hback]

theorem rawBit_eq_false {raw : RawBits} {i : Nat} (h : 17 < i) : rawBit raw i = false :=
  BitVec.getLsbD_of_ge raw i h

theorem rawImage_getD (raw : RawBits) {b : Nat} (hb : b < 3) : (rawImage raw).getD b 0#8 = imageByte raw b := by
  interval_cases b <;> rfl

theorem imageByte_zero_toNat (raw : RawBits) : (imageByte raw 0).toNat = addrByte raw := by
  rw [← Nat.mod_eq_of_lt (addrByte_lt raw), imageByte, addrByte, BitVec.toNat_ofNat]
  simp only [Nat.mul_zero, Nat.zero_add, Nat.mul_one]

/-- Settles O8: a byte of the image is a list of eight bits packed, and `RAW` has no bit past 17. -/
theorem rawImageIsMostSignificantBitFirst : Obligations.RawImageIsMostSignificantBitFirst := by
  intro raw
  refine ⟨fun b hb j hj => ?_, imageByte_zero_toNat raw⟩
  rw [rawImage_getD raw hb, imageByte_getLsbD raw b hj]
  by_cases h : 8 * b + j ≤ 17
  · simp [h]
  · simp [h, rawBit_eq_false (Nat.lt_of_not_le h)]

/-! ### What the sampler writes -/

/-- What the sampler may have done to slot `j`, where `w` is the write pointer before the step and `w'` after it. -/
structure SamplerWrites (w w' j : Nat) (r r' : Slot) : Prop where
  derived : r'.derived = r.derived
  captured : j ≠ w → r'.raw = r.raw ∧ r'.dur = r.dur ∧ r'.kind = r.kind
  state : r'.state = r.state ∨ (j = w ∧ r'.state = .readyToDecode) ∨ (j = w' ∧ r'.state = .capturing)

theorem SamplerWrites.refl (w w' j : Nat) (r : Slot) : SamplerWrites w w' j r r := ⟨rfl, fun _ => ⟨rfl, rfl, rfl⟩, .inl rfl⟩

theorem SamplerWrites.fillSlot (w w' : Nat) (f : Frame) (r : Slot) : SamplerWrites w w' w r (fillSlot f r) :=
  ⟨rfl, fun h => absurd rfl h, .inr (.inl ⟨rfl, rfl⟩)⟩

theorem SamplerWrites.toCapturing {w j : Nat} {r r' : Slot} (w' : Nat) (h : SamplerWrites w w' j r r') (hj : j = w') :
    SamplerWrites w w' j r (toCapturing r') :=
  ⟨h.derived, h.captured, .inr (.inr ⟨hj, rfl⟩)⟩

theorem samplerWrites_enqueue (f : Frame) {s : State} (h : s.wp < s.slots.length)
    (h' : nextIndex s.cfg.capacity s.wp < s.slots.length) (j : Nat) :
    SamplerWrites s.wp (nextIndex s.cfg.capacity s.wp) j (slotGet s j) (slotGet (enqueue f s) j) := by
  have hfill : SamplerWrites s.wp (nextIndex s.cfg.capacity s.wp) j (slotGet s j)
      (if j = s.wp then Machine.fillSlot f (slotGet s s.wp) else slotGet s j) := by
    split
    · next hj => exact hj ▸ .fillSlot _ _ f _
    · exact .refl _ _ j _
  rw [slotGet_enqueue f h h']
  split
  · next hj => exact hfill.toCapturing _ hj
  · exact hfill

theorem samplerWrites_edgeStep (ts : Nat) {s : State} (h : s.wp < s.slots.length)
    (h' : nextIndex s.cfg.capacity s.wp < s.slots.length) (j : Nat) :
    SamplerWrites s.wp (edgeStep ts s).wp j (slotGet s j) (slotGet (edgeStep ts s) j) := by
  rcases edgeStep_queue ts s with ⟨hs, _, _⟩ | ⟨_, hw, hs⟩
  · rw [slotGet_of_slots hs]
    exact .refl _ _ j _
  · rw [slotGet_of_slots hs, hw]
    exact samplerWrites_enqueue _ h h' j

/-- Settles O25: EDGE leaves the queue, or fills the write slot and takes over the next. -/
theorem samplerWritesOnlyTheWriteSlotAndTheNext : Obligations.SamplerWritesOnlyTheWriteSlotAndTheNext := by
  intro s t ts j hlen hwp h
  have hwrites : SamplerWrites s.wp t.wp j (slotGet s j) (slotGet t j) := by
    rcases guarded_next h with ⟨_, rfl⟩ | ⟨_, rfl⟩
    · have hnext := nextIndex_lt s.wp (Nat.zero_lt_of_lt hwp)
      exact samplerWrites_edgeStep ts (hlen ▸ hwp) (hlen ▸ hnext) j
    · exact .refl _ _ j _
  exact ⟨hwrites.derived, hwrites.captured, hwrites.state⟩

/-! ### What the decoder and the consumer write -/

/-- What an instruction other than EDGE and RESET may do: a request or a skip writes no slot, and a telegram class writes the
ReadyToDecode slot of the cursor. -/
inductive FrameEffect (i : Instr) (s : State) : State → Prop where
  | noSlot (p : CPhase) (m : Bool) (rs : List Response) (l : Option Label)
      (hr : formatOf i = .decodeWord → rs = s.responses) :
      FrameEffect i s { s with cphase := p, refusedMark := m, responses := rs, label := l }
  | oneSlot (j : Nat) (b : Bool) (r : Slot) (p : CPhase) (l : Option Label) (hi : formatOf i = .decodeWord)
      (hp : s.cphase = .pass j b) (hr : (slotGet s j).state = .readyToDecode) :
      FrameEffect i s { s with slots := s.slots.set j r, cphase := p, label := l }

/-- An index past the queue reads a Consumed record (log 17), so a ReadyToDecode slot is in the queue. -/
theorem lt_length_of_ready {s : State} {i : Nat} (h : (slotGet s i).state = .readyToDecode) : i < s.slots.length := by
  by_contra hge
  rw [slotGet, List.getD_eq_default _ _ (Nat.le_of_not_lt hge)] at h
  cases h

/-- A slot step has the frame if its effect writes one slot and the label. -/
theorem FrameEffect.slotStep {i : Instr} {s : State} {effect : Nat → State → State} (hi : formatOf i = .decodeWord)
    (he : ∀ j < s.slots.length, ∃ r l, effect j s = setLabel (slotSet s j r) l) : FrameEffect i s (slotStep effect s) := by
  rcases slotStep_cases effect s with e | ⟨j, b, hp, _, hr, e⟩ | ⟨j, b, _, _, _, e⟩
  · rw [e]
    exact .noSlot s.cphase s.refusedMark s.responses s.label fun _ => rfl
  · obtain ⟨r, l, el⟩ := he j (lt_length_of_ready hr)
    rw [e, el]
    exact .oneSlot j b r _ l hi hp hr
  · rw [e]
    exact .noSlot _ s.refusedMark s.responses _ fun _ => rfl

theorem exec_frameEffect {i : Instr} {s t : State} (hedge : ∀ ts, i ≠ .edge ts) (hreset : i ≠ .reset)
    (h : exec i s = .next t) : FrameEffect i s t := by
  rcases exec_effect h with rfl | ⟨_, _, rfl⟩ | ⟨ts, he, _⟩ | ⟨p, _, _, rfl⟩ | ⟨r, hi, rfl⟩ | ⟨hr, _⟩ |
    ⟨d, raw, hi, rfl⟩ | ⟨d, hi, rfl⟩
  · exact .noSlot s.cphase true s.responses none fun _ => rfl
  · exact .noSlot _ t.refusedMark _ t.label fun _ => rfl
  · exact absurd he (hedge ts)
  · exact .noSlot p s.refusedMark s.responses none fun _ => rfl
  · exact .noSlot s.cphase s.refusedMark _ none fun hd => by cases hi.symm.trans hd
  · exact absurd hr hreset
  · exact .slotStep hi fun j hj => ⟨_, _, finishDecoded_eq d raw hj⟩
  · exact .slotStep hi fun j _ => ⟨_, _, rfl⟩

/-- Settles O42: such an instruction writes no slot, or the ReadyToDecode slot of the cursor. -/
theorem decoderAndConsumerFrame : Obligations.DecoderAndConsumerFrame := by
  intro i s t hedge hreset h
  cases exec_frameEffect hedge hreset h with
  | noSlot p m rs l hr =>
    exact ⟨rfl, rfl, rfl, rfl, rfl, rfl, rfl, rfl, rfl, rfl, rfl, rfl, fun _ _ => rfl, fun _ _ => rfl, fun _ => rfl, hr⟩
  | oneSlot j b r p l hi hp hr =>
    have hother (k : Nat) (hk : k ≠ j) :
        slotGet { s with slots := s.slots.set j r, cphase := p, label := l } k = slotGet s k :=
      slotGet_slotSet_ne s r (Ne.symm hk)
    refine ⟨rfl, rfl, rfl, rfl, rfl, rfl, rfl, rfl, rfl, rfl, rfl, List.length_set, fun k hk => hother k ?_,
      fun k hk => hother k ?_, fun hc => ?_, fun _ => rfl⟩
    · rintro rfl
      exact hk b hp
    · rintro rfl
      cases hk.symm.trans hr
    · cases hi.symm.trans hc

end Sys2Proof.Machine

/-! PROOFS. Command words (30_encoding.md R61 to R68): a word is an operand above an opcode, the request it decodes to encodes
back to it, and only an opcode that takes no operand rejects one. -/

namespace Sys2Proof.Machine

/-! ### Opcodes and operands -/

theorem decodeCmd_eq_decodeOp {t w : Nat} (h : w < 2 ^ (t + 4)) : decodeCmd t w = decodeOp (w % 16) (w / 16) := if_pos h

/-- The word of an opcode and an operand is read as both (30_encoding.md R61). -/
theorem decodeCmd_operand_word {t op operand : Nat} (ho : op < 16) (h : operand < 2 ^ t) :
    decodeCmd t (operand * 16 + op) = decodeOp op operand := by
  rw [decodeCmd_eq_decodeOp (Laws.WordFits.operand_word_lt h ho), show (operand * 16 + op) % 16 = op by omega,
    show (operand * 16 + op) / 16 = operand by omega]

/-- An opcode alone is a word with operand zero. -/
theorem decodeCmd_opcode {op : Nat} (t : Nat) (ho : op < 16) : decodeCmd t op = decodeOp op 0 := by
  simpa using decodeCmd_operand_word ho (Nat.two_pow_pos t)

/-- The opcodes 0x8 to 0xF are one reserved row (30_encoding.md R67). -/
theorem decodeOp_of_eight_le {op : Nat} (h : 8 ≤ op) (h' : op < 16) (operand : Nat) :
    decodeOp op operand = .ok (.reserved0x8To0xF (BitVec.ofNat 3 op) operand) := by
  interval_cases op <;> rfl

theorem decodeOp_reserved (low : BitVec 3) (operand : Nat) :
    decodeOp (8 + low.toNat) operand = .ok (.reserved0x8To0xF low operand) := by
  have hlt := low.isLt
  have hlow : BitVec.ofNat 3 (8 + low.toNat) = low := by simp [BitVec.ofNat_add]
  rw [decodeOp_of_eight_le (by omega) (by omega), hlow]

theorem zeroOperand_eq_ok_iff {op operand : Nat} {i j : Instr} :
    zeroOperand op operand j = .ok i ↔ operand = 0 ∧ j = i := by
  unfold zeroOperand
  split <;> simp [*]

theorem exists_zeroOperand_eq_error_iff {op operand : Nat} {i : Instr} :
    (∃ e, zeroOperand op operand i = .error e) ↔ operand ≠ 0 := by
  unfold zeroOperand
  split <;> simp [*]

/-- The request of an opcode and an operand has both in its word, and is well formed where the operand fits its field. -/
theorem request_of_decodeOp {op operand : Nat} {i : Instr} (ho : op < 16) (h : decodeOp op operand = .ok i) :
    encode i = operand * 16 + op ∧ ∀ c : Config, operand < 2 ^ c.tsWidth → i.wf c = true := by
  match op, ho, h with
  | 2, _, h | 3, _, h | 5, _, h | 6, _, h =>
    obtain ⟨rfl, rfl⟩ := zeroOperand_eq_ok_iff.1 h
    exact ⟨rfl, fun _ _ => rfl⟩
  | 0, _, h | 1, _, h | 4, _, h | 7, _, h | 8, _, h | 9, _, h | 10, _, h | 11, _, h | 12, _, h | 13, _, h | 14, _, h
  | 15, _, h =>
    cases h
    exact ⟨rfl, fun _ hc => decide_eq_true hc⟩
  | _ + 16, ho, _ => omega

theorem exists_decodeOp_eq_error_iff {op operand : Nat} (ho : op < 16) :
    (∃ e, decodeOp op operand = .error e) ↔ (op = 2 ∨ op = 3 ∨ op = 5 ∨ op = 6) ∧ operand ≠ 0 := by
  interval_cases op <;> simp [decodeOp, exists_zeroOperand_eq_error_iff]

/-- Settles O2: the word of a request is read as its opcode and its operand, which name the request. -/
theorem requestsDecodeFromTheirWords : Obligations.RequestsDecodeFromTheirWords := by
  intro c i hf hwf
  cases i with
  | edge _ | slotAt _ | reserved0x0 _ | reserved0x7 _ =>
    exact decodeCmd_operand_word (by decide) (of_decide_eq_true hwf)
  | decodePass | poll | writePtr | reset => exact decodeCmd_opcode c.tsWidth (by decide)
  | reserved0x8To0xF low operand =>
    have hlow := low.isLt
    rw [encode, Nat.add_assoc, decodeCmd_operand_word (by omega) (of_decide_eq_true hwf), decodeOp_reserved]
  | mag _ | magBad _ | locStop _ | locDirChg _ | locSpeed2 _ | locSpeed3 _ | locSpeed4 _ | locSpeed5 _ | locSpeed6 _
  | locSpeed7 _ | locSpeed8 _ | locSpeed9 _ | locSpeed10 _ | locSpeed11 _ | locSpeed12 _ | locSpeed13 _ | locSpeed14 _
  | locSpeed15 _ | extNop01 _ | extFunc2 _ | extFwd _ | extFunc3 _ | extNop89 _ | extBwd _ | extFunc1 _ | extFunc4 _ =>
    cases hf

/-- Settles O3: a word that decodes is in range, and its request holds the word's own opcode and operand. -/
theorem decodedRequestsEncodeToTheirWords : Obligations.DecodedRequestsEncodeToTheirWords := by
  intro c w i h
  have hformat := formatOf_decodeCmd h
  by_cases hw : w < 2 ^ (c.tsWidth + 4)
  · rw [decodeCmd_eq_decodeOp hw] at h
    obtain ⟨hencode, hwf⟩ := request_of_decodeOp (Nat.mod_lt w (by decide)) h
    rw [Laws.WordFits.four_bits_above] at hw
    exact ⟨hencode.trans (Nat.div_add_mod' w 16), hformat, hwf c (Nat.div_lt_of_lt_mul (Nat.mul_comm _ _ ▸ hw))⟩
  · rw [decodeCmd, if_neg hw] at h
    cases h

/-- Settles O4: a word in range is rejected by its opcode or not at all. -/
theorem onlyNonzeroOperandsAreRejected : Obligations.OnlyNonzeroOperandsAreRejected := by
  intro t w hw
  rw [decodeCmd_eq_decodeOp hw]
  exact exists_decodeOp_eq_error_iff (Nat.mod_lt w (by decide))

/-! ### Refusals -/

/-- An operand that must be zero and is not rejects a word of any width. -/
theorem exists_decodeCmd_eq_error {w : Nat} (t : Nat) (ho : w % 16 = 2 ∨ w % 16 = 3 ∨ w % 16 = 5 ∨ w % 16 = 6)
    (hx : w / 16 ≠ 0) : ∃ e, decodeCmd t w = .error e := by
  by_cases hw : w < 2 ^ (t + 4)
  · exact (onlyNonzeroOperandsAreRejected t w hw).2 ⟨ho, hx⟩
  · exact ⟨_, if_neg hw⟩

theorem runWord_of_error {w : Nat} {s : State} {e : DecodeError} (h : decodeCmd s.cfg.tsWidth w = .error e) :
    runWord w s = .next (refuse s) := by
  rw [runWord, h]

/-- Settles O46: the agent's port offers the word, and the word decodes to no request. -/
theorem stepRefusesANonzeroOperand : Obligations.StepRefusesANonzeroOperand := by
  intro s a rest w ws hn hc hp hh ho hx
  obtain ⟨e, he⟩ := exists_decodeCmd_eq_error s.cfg.tsWidth ho hx
  have hoffered : offered { s with schedule := rest } a = some (w, ws) := by
    rw [offered_setSchedule, offered_of_not_held hp hh]
  rw [step_of_turn hn, agentStep_of_word (s := { s with schedule := rest }) hc hoffered,
    runWord_of_error (e := e) (by rw [setPort_cfg, he])]
  rfl

/-- Settles O11: each reserved row answers the one refusal. -/
theorem reservedOpcodesAreRefused : Obligations.ReservedOpcodesAreRefused :=
  fun _ _ _ => ⟨rfl, rfl, rfl⟩

/-- Settles O1: the decoders evaluate to the requests and classes written out. -/
theorem wordsOfTheTablesDecode : Obligations.WordsOfTheTablesDecode := by
  unfold Obligations.WordsOfTheTablesDecode
  decide

end Sys2Proof.Machine

/-! PROOFS. Decode words (30_encoding.md R70 to R78): the mask of a row keeps the bits of one code, so exactly one base class
and one sub-class match a telegram, and the classes of a telegram are the well-formed classes of its word. -/

namespace Sys2Proof.Machine

/-! ### The word of a telegram -/

/-- The kind bit stands above the raw bits (30_encoding.md R70). -/
theorem decodeWordOf_testBit (k : Kind) (raw : RawBits) (j : Nat) :
    (decodeWordOf k raw).testBit j = if j < 18 then rawBit raw j else (kindNat k).testBit (j - 18) := by
  rw [decodeWordOf, Nat.mul_comm, Nat.testBit_two_pow_mul_add _ raw.isLt]
  rfl

theorem kindOfWord_decodeWordOf (k : Kind) (raw : RawBits) : kindOfWord (decodeWordOf k raw) = k := by
  rw [kindOfWord, decodeWordOf_testBit]
  cases k <;> rfl

theorem ofNat_decodeWordOf (k : Kind) (raw : RawBits) : BitVec.ofNat 18 (decodeWordOf k raw) = raw := by
  have hlt := raw.isLt
  refine BitVec.eq_of_toNat_eq ?_
  rw [BitVec.toNat_ofNat, decodeWordOf]
  omega

theorem decodeDW_decodeWordOf (k : Kind) (raw : RawBits) :
    decodeDW (decodeWordOf k raw) = .ok (decodeTelegram k raw) := by
  rw [decodeDW, if_pos (Laws.WordFits.decodeWordOf_lt k raw), kindOfWord_decodeWordOf, ofNat_decodeWordOf]

/-! ### The rows that match -/

/-- A mask's highest bit keeps one bit of the word. -/
theorem and_add_two_pow {x m j : Nat} (h : m < 2 ^ j) : x &&& (m + 2 ^ j) = (x &&& m) + (x.testBit j).toNat * 2 ^ j := by
  have hadd (b : Bool) {y : Nat} (hy : y < 2 ^ j) : y + b.toNat * 2 ^ j = b.toNat * 2 ^ j ||| y := by
    rw [Nat.add_comm, Nat.mul_comm, Nat.two_pow_add_eq_or_of_lt hy]
  rw [hadd _ (Nat.and_lt_two_pow x h), ← Nat.and_two_pow, ← Nat.and_or_distrib_left]
  simpa using congrArg (x &&& ·) (hadd true h)

/-- The mask of the magnet rows keeps the kind bit and `RAW[8]`. -/
theorem decodeWordOf_and_magnetMask (k : Kind) (raw : RawBits) :
    decodeWordOf k raw &&& 0x40100 = rawNat raw 8 * 2 ^ 8 + kindNat k * 2 ^ 18 := by
  rw [show 0x40100 = 0 + 2 ^ 8 + 2 ^ 18 from rfl, and_add_two_pow (by decide), and_add_two_pow (by decide)]
  simp only [decodeWordOf_testBit]
  cases k <;> simp [rawNat, kindNat]

theorem decodeWordOf_and_locMask (k : Kind) (raw : RawBits) :
    decodeWordOf k raw &&& 0x55400 = rawNat raw 10 * 2 ^ 10 + rawNat raw 12 * 2 ^ 12 + rawNat raw 14 * 2 ^ 14 +
      rawNat raw 16 * 2 ^ 16 + kindNat k * 2 ^ 18 := by
  rw [show 0x55400 = 0 + 2 ^ 10 + 2 ^ 12 + 2 ^ 14 + 2 ^ 16 + 2 ^ 18 from rfl]
  iterate 5 rw [and_add_two_pow (by decide)]
  simp only [decodeWordOf_testBit]
  cases k <;> simp [rawNat, kindNat]

/-- The mask of the sub-class rows keeps the kind bit and the upper three bits of `sMM2`. -/
theorem decodeWordOf_and_extMask (k : Kind) (raw : RawBits) :
    decodeWordOf k raw &&& 0x4A800 = rawNat raw 11 * 2 ^ 11 + rawNat raw 13 * 2 ^ 13 + rawNat raw 15 * 2 ^ 15 +
      kindNat k * 2 ^ 18 := by
  rw [show 0x4A800 = 0 + 2 ^ 11 + 2 ^ 13 + 2 ^ 15 + 2 ^ 18 from rfl]
  iterate 4 rw [and_add_two_pow (by decide)]
  simp only [decodeWordOf_testBit]
  cases k <;> simp [rawNat, kindNat]

theorem rowMatches_mag (k : Kind) (raw : RawBits) :
    rowMatches (.mag raw) k raw = (decide (k = .magnet) && !rawBit raw 8) := by
  rw [rowMatches, rowMask, decodeWordOf_and_magnetMask, rawNat]
  cases k <;> cases rawBit raw 8 <;> rfl

theorem rowMatches_magBad (k : Kind) (raw : RawBits) :
    rowMatches (.magBad raw) k raw = (decide (k = .magnet) && rawBit raw 8) := by
  rw [rowMatches, rowMask, decodeWordOf_and_magnetMask, rawNat]
  cases k <;> cases rawBit raw 8 <;> rfl

theorem kindNat_le (k : Kind) : kindNat k ≤ 1 := by
  cases k <;> decide

theorem kindNat_eq_zero_iff {k : Kind} : kindNat k = 0 ↔ k = .locomotive := by
  cases k <;> decide

/-- A base-class row matches the locomotive words with its speed code (30_encoding.md R73). -/
theorem rowMatches_locClass {n : Nat} (hn : n < 16) (k : Kind) (raw : RawBits) :
    rowMatches (locClass n raw) k raw = decide (k = .locomotive ∧ n = speedCode raw) := by
  have h10 := rawNat_le raw 10
  have h12 := rawNat_le raw 12
  have h14 := rawNat_le raw 14
  have h16 := rawNat_le raw 16
  have hk := kindNat_le k
  rw [rowMatches, decide_eq_decide, ← kindNat_eq_zero_iff, speedCode]
  interval_cases n
  all_goals
    simp only [locClass, rowMask, rowMatch, decodeWordOf_and_locMask]
    omega

/-- The sub-class row of a value of `RAW[11] RAW[13] RAW[15]` (30_encoding.md R76). -/
def extRow (n : Nat) (raw : RawBits) : Instr := (extRows raw).getD n (.extFunc4 raw)

theorem extClass_eq_extRow (raw : RawBits) : extClass raw = extRow (extCode raw / 2) raw := by
  have hlt := extCode_lt raw
  unfold extClass
  generalize extCode raw = n at hlt
  interval_cases n <;> rfl

/-- A sub-class row matches the locomotive words with its half of the extended code (30_encoding.md R75, R76). -/
theorem rowMatches_extRow {n : Nat} (hn : n < 8) (k : Kind) (raw : RawBits) :
    rowMatches (extRow n raw) k raw = decide (k = .locomotive ∧ n = extCode raw / 2) := by
  have h11 := rawNat_le raw 11
  have h13 := rawNat_le raw 13
  have h15 := rawNat_le raw 15
  have h17 := rawNat_le raw 17
  have hk := kindNat_le k
  rw [rowMatches, decide_eq_decide, ← kindNat_eq_zero_iff, extCode]
  interval_cases n
  all_goals
    simp only [extRow, extRows, List.getD_cons_zero, List.getD_cons_succ, rowMask, rowMatch, decodeWordOf_and_extMask]
    omega

/-- Of rows numbered below `n`, those that match telegrams of one kind with one code. -/
theorem filter_rows_eq {n m : Nat} {k : Kind} {row : Nat → Instr} {p : Instr → Bool} (hm : m < n)
    (hp : ∀ j < n, p (row j) = decide (k = .locomotive ∧ j = m)) :
    ((List.range n).map row).filter p = if k = .locomotive then [row m] else [] := by
  have hfilter : (List.range n).filter (p ∘ row) = (List.range n).filter fun j => decide (k = .locomotive ∧ j = m) :=
    List.filter_congr fun j hj => hp j (List.mem_range.1 hj)
  rw [List.filter_map, hfilter]
  split
  · next hk =>
    simp only [hk, true_and]
    rw [List.filter_eq, List.count_eq_one_of_mem List.nodup_range (List.mem_range.2 hm)]
    rfl
  · next hk => simp [hk]

/-- Settles O6: a base-class row matches one speed code or one value of `RAW[8]`, a sub-class row one half of `sMM2`. -/
theorem everyTelegramHasOneBaseClass : Obligations.EveryTelegramHasOneBaseClass := by
  intro k raw
  constructor
  · rw [show baseRows raw = [.mag raw, .magBad raw] ++ (List.range 16).map (locClass · raw) from rfl, List.filter_append,
      filter_rows_eq (speedCode_lt raw) fun n hn => rowMatches_locClass hn k raw]
    cases k with
    | locomotive => simp [rowMatches_mag, rowMatches_magBad, baseClass]
    | magnet => cases h8 : rawBit raw 8 <;> simp [rowMatches_mag, rowMatches_magBad, baseClass, h8]
  · have hcode : extCode raw / 2 < 8 := Nat.div_lt_of_lt_mul (extCode_lt raw)
    rw [show extRows raw = (List.range 8).map (extRow · raw) from rfl,
      filter_rows_eq hcode fun n hn => rowMatches_extRow hn k raw, extClass_eq_extRow]

/-! ### The classes of a telegram -/

theorem mem_baseRows_and_match_iff {i : Instr} {k : Kind} {raw : RawBits} :
    i ∈ baseRows raw ∧ rowMatches i k raw = true ↔ i = baseClass k raw := by
  rw [← List.mem_filter (p := fun i => rowMatches i k raw), (everyTelegramHasOneBaseClass k raw).1, List.mem_singleton]

theorem mem_extRows_and_match_iff {i : Instr} {raw : RawBits} :
    i ∈ extRows raw ∧ rowMatches i .locomotive raw = true ↔ i = extClass raw := by
  rw [← List.mem_filter (p := fun i => rowMatches i .locomotive raw), (everyTelegramHasOneBaseClass .locomotive raw).2,
    if_pos rfl, List.mem_singleton]

/-- `i` is a well-formed telegram class with the word of a telegram. -/
def IsClassOf (c : Config) (k : Kind) (raw : RawBits) (i : Instr) : Prop :=
  formatOf i = .decodeWord ∧ i.wf c = true ∧ encode i = decodeWordOf k raw

theorem isClassOf_baseClass (c : Config) (k : Kind) (raw : RawBits) : IsClassOf c k raw (baseClass k raw) := by
  obtain ⟨-, hmatch⟩ := mem_baseRows_and_match_iff.2 (Eq.refl (baseClass k raw))
  cases k with
  | magnet =>
    cases h8 : rawBit raw 8
    all_goals
      simp only [baseClass, h8] at hmatch ⊢
      exact ⟨rfl, hmatch, rfl⟩
  | locomotive =>
    have hlt := speedCode_lt raw
    simp only [baseClass] at hmatch ⊢
    generalize speedCode raw = n at hlt hmatch
    interval_cases n <;> exact ⟨rfl, hmatch, rfl⟩

theorem isClassOf_extClass (c : Config) {raw : RawBits} (he : ext raw = true) :
    IsClassOf c .locomotive raw (extClass raw) := by
  obtain ⟨hrow, hmatch⟩ := mem_extRows_and_match_iff.2 (Eq.refl (extClass raw))
  generalize extClass raw = i at hrow hmatch
  simp only [extRows, List.mem_cons, List.not_mem_nil, or_false] at hrow
  rcases hrow with rfl | rfl | rfl | rfl | rfl | rfl | rfl | rfl
  all_goals exact ⟨rfl, Bool.and_eq_true_iff.2 ⟨hmatch, he⟩, rfl⟩

/-- Every class name of a telegram is a well-formed class with the telegram's word. -/
theorem isClassOf_of_mem_classesOf (c : Config) {k : Kind} {raw : RawBits} {i : Instr} (h : i ∈ classesOf k raw) :
    IsClassOf c k raw i := by
  rcases mem_classesOf.1 h with rfl | ⟨⟨rfl, he⟩, rfl⟩
  · exact isClassOf_baseClass c k raw
  · exact isClassOf_extClass c he

/-- Every well-formed telegram class is a class name of the telegram it holds. -/
theorem exists_mem_classesOf {c : Config} {i : Instr} (hf : formatOf i = .decodeWord) (hwf : i.wf c = true) :
    ∃ k raw, encode i = decodeWordOf k raw ∧ i ∈ classesOf k raw := by
  cases i with
  | edge _ | decodePass | poll | slotAt _ | writePtr | reset | reserved0x0 _ | reserved0x7 _ | reserved0x8To0xF _ _ =>
    cases hf
  | mag raw | magBad raw =>
    exact ⟨.magnet, raw, rfl, mem_classesOf.2 (.inl (mem_baseRows_and_match_iff.1 ⟨by simp [baseRows], hwf⟩))⟩
  | locStop raw | locDirChg raw | locSpeed2 raw | locSpeed3 raw | locSpeed4 raw | locSpeed5 raw | locSpeed6 raw
  | locSpeed7 raw | locSpeed8 raw | locSpeed9 raw | locSpeed10 raw | locSpeed11 raw | locSpeed12 raw | locSpeed13 raw
  | locSpeed14 raw | locSpeed15 raw =>
    exact ⟨.locomotive, raw, rfl, mem_classesOf.2 (.inl (mem_baseRows_and_match_iff.1 ⟨by simp [baseRows], hwf⟩))⟩
  | extNop01 raw | extFunc2 raw | extFwd raw | extFunc3 raw | extNop89 raw | extBwd raw | extFunc1 raw | extFunc4 raw =>
    obtain ⟨hmatch, he⟩ := Bool.and_eq_true_iff.1 hwf
    exact ⟨.locomotive, raw, rfl,
      mem_classesOf.2 (.inr ⟨⟨rfl, he⟩, mem_extRows_and_match_iff.1 ⟨by simp [extRows], hmatch⟩⟩)⟩

/-- Settles O5: the class names of a telegram are the well-formed classes of its word, and the decoder answers one of them. -/
theorem telegramClassesDecodeFromTheirWords : Obligations.TelegramClassesDecodeFromTheirWords := by
  constructor
  · intro c i hf hwf
    obtain ⟨k, raw, hword, hmem⟩ := exists_mem_classesOf hf hwf
    obtain ⟨-, -, hencode⟩ := isClassOf_of_mem_classesOf c (decodeTelegram_mem_classesOf k raw)
    rw [hword, kindOfWord_decodeWordOf, ofNat_decodeWordOf]
    exact ⟨Laws.WordFits.decodeWordOf_lt k raw, hmem, decodeTelegram k raw, decodeTelegram_mem_classesOf k raw,
      decodeDW_decodeWordOf k raw, hencode⟩
  · intro c k raw
    exact ⟨kindOfWord_decodeWordOf k raw, ofNat_decodeWordOf k raw, decodeDW_decodeWordOf k raw,
      decodeTelegram_mem_classesOf k raw, fun _ hp => isClassOf_of_mem_classesOf c hp⟩

/-! ### The two names of an extended word -/

/-- Settles O7: under either name the step writes the fields that the raw bits give. -/
theorem bothNamesOfAWordMeanOneStep : Obligations.BothNamesOfAWordMeanOneStep :=
  fun raw s he => (exec_baseClass_locomotive raw s).trans (exec_extClass he s).symm

/-- Settles O39: the map by code and the table agree in each row. -/
theorem extendedCodeMapIsTheTable : Obligations.ExtendedCodeMapIsTheTable :=
  fun raw _ hfunc hon hdir => extMap_eq_table raw hfunc hon hdir

end Sys2Proof.Machine

/-! PROOFS. The sampler (40_sampler.md R82 to R95): one equation for each outcome of EDGE, and what any EDGE leaves in `lastTs`,
in the samples and in the counters. -/

namespace Sys2Proof.Machine

/-! ### The outcomes of EDGE -/

theorem exec_edge_of_wf {s : State} (ts : Nat) (h : s.cfg.wf = true) : exec (.edge ts) s = .next (edgeStep ts s) :=
  guarded_of_wf _ h

theorem eq_edgeStep_of_exec {s t : State} {ts : Nat} (hw : s.cfg.wf = true) (h : exec (.edge ts) s = .next t) :
    t = edgeStep ts s :=
  Host.Outcome.next.inj (h.symm.trans (exec_edge_of_wf ts hw))

theorem edgeStep_of_unsynced_gap {s : State} {ts : Nat} (hs : s.synced = false) (hd : s.cfg.gapThreshold < deltaOf ts s) :
    edgeStep ts s = edgeSync ts { s with lastTs := ts } :=
  (if_pos hs).trans (if_pos hd)

theorem edgeStep_of_unsynced_no_gap {s : State} {ts : Nat} (hs : s.synced = false) (hd : deltaOf ts s ≤ s.cfg.gapThreshold) :
    edgeStep ts s = edgeIgnored { s with lastTs := ts } :=
  (if_pos hs).trans (if_neg hd.not_gt)

theorem edgeStep_of_synced_gap {s : State} {ts : Nat} (hs : s.synced = true) (hd : s.cfg.gapThreshold < deltaOf ts s) :
    edgeStep ts s = edgeResync ts { s with lastTs := ts } :=
  (if_neg (ne_false_of_eq_true hs)).trans (if_pos hd)

theorem edgeStep_of_synced_no_gap {s : State} {ts : Nat} (hs : s.synced = true) (hd : deltaOf ts s ≤ s.cfg.gapThreshold) :
    edgeStep ts s = edgeSample ts (deltaOf ts s) { s with lastTs := ts } :=
  (if_neg (ne_false_of_eq_true hs)).trans (if_neg hd.not_gt)

/-- Before the 35th sample, a sample is stored and counted (40_sampler.md R86). -/
theorem edgeSample_of_lt {s : State} (ts delta : Nat) (h : s.count + 1 < 35) :
    edgeSample ts delta s = setLabel (storeSample delta s) (some (.edge .sample)) :=
  if_pos h

/-- The 35th sample finalizes the frame in the same step (40_sampler.md R86, R88). -/
theorem edgeSample_of_last {s : State} (ts delta : Nat) (h : s.count + 1 = 35) :
    edgeSample ts delta s = finalize ts (storeSample delta s) :=
  if_neg (Nat.not_lt.mpr h.ge)

/-- Settles O16: the branch of an unsynchronized edge above the threshold. -/
theorem edgeSyncStartsACapture : Obligations.EdgeSyncStartsACapture := by
  intro s ts hw hs hd
  rw [exec_edge_of_wf ts hw, edgeStep_of_unsynced_gap hs hd]
  rfl

/-- Settles O17: the branch of an unsynchronized edge at or below the threshold. -/
theorem edgeIgnoredChangesOnlyLastTs : Obligations.EdgeIgnoredChangesOnlyLastTs := by
  intro s ts hw hs hd
  rw [exec_edge_of_wf ts hw, edgeStep_of_unsynced_no_gap hs hd]
  rfl

/-- Settles O18: the branch of a synchronized edge above the threshold. -/
theorem edgeResyncRestartsTheCapture : Obligations.EdgeResyncRestartsTheCapture := by
  intro s ts hw hs hd
  rw [exec_edge_of_wf ts hw, edgeStep_of_synced_gap hs hd]
  rfl

/-- Settles O19: a sample is stored, and the 35th finalizes the frame. -/
theorem edgeSampleStoresTheInterval : Obligations.EdgeSampleStoresTheInterval := by
  intro s ts hw hs hd
  rw [exec_edge_of_wf ts hw, edgeStep_of_synced_no_gap hs hd]
  refine ⟨fun h => ?_, fun h => ?_⟩
  · rw [edgeSample_of_lt (s := { s with lastTs := ts }) ts _ h]
    rfl
  · rw [edgeSample_of_last (s := { s with lastTs := ts }) ts _ h, storeSample, h]

/-! ### The timestamp and the interval -/

/-- Subtraction modulo `2 ^ t` is the remainder of the difference of integers (00_scope.md R17). -/
theorem tsSub_eq_emod (t a b : Nat) : (tsSub t a b : Int) = ((a : Int) - (b : Int)) % ((2 ^ t : Nat) : Int) := by
  have hb : b % 2 ^ t ≤ 2 ^ t := (Nat.mod_lt b (Nat.two_pow_pos t)).le
  rw [tsSub, Int.natCast_emod, Int.natCast_add, Int.natCast_sub hb, Int.natCast_emod]
  generalize ((2 ^ t : Nat) : Int) = m
  calc ((a : Int) + (m - (b : Int) % m)) % m
      = ((a : Int) - (b : Int) % m + m) % m := by ring_nf
    _ = ((a : Int) - (b : Int)) % m := by rw [Int.add_emod_right, Int.sub_emod_emod]

theorem edgeSample_lastTs (ts delta : Nat) (s : State) : (edgeSample ts delta s).lastTs = s.lastTs := by
  rcases edgeSample_cases ts delta s with ⟨_, e⟩ | ⟨_, _, e⟩ | ⟨_, _, e⟩ <;> rw [e] <;> rfl

theorem edgeStep_lastTs (ts : Nat) (s : State) : (edgeStep ts s).lastTs = ts := by
  rcases edgeStep_cases ts s with ⟨_, _, e⟩ | ⟨_, _, e⟩ | ⟨_, _, e⟩ | ⟨_, _, e⟩ <;> rw [e]
  iterate 3 rfl
  exact edgeSample_lastTs ts _ _

/-- Settles O15: the interval is a subtraction modulo `2 ^ TS_WIDTH`, and each outcome keeps the `lastTs` written first. -/
theorem edgeTakesTheIntervalAndTheTimestamp : Obligations.EdgeTakesTheIntervalAndTheTimestamp :=
  fun s ts hw => ⟨tsSub_eq_emod s.cfg.tsWidth ts s.lastTs, edgeStep ts s, exec_edge_of_wf ts hw, edgeStep_lastTs ts s⟩

/-! ### The samples -/

theorem edgeSample_iv (ts delta : Nat) (s : State) : (edgeSample ts delta s).iv = s.iv.set s.count (delta / s.cfg.ratio) := by
  rcases edgeSample_cases ts delta s with ⟨_, e⟩ | ⟨_, _, e⟩ | ⟨_, _, e⟩ <;> rw [e] <;> rfl

/-- An EDGE step leaves the buffer alone, or stores one interval that is not above GAP_THRESHOLD (40_sampler.md R86). -/
theorem edgeStep_iv (ts : Nat) (s : State) :
    (edgeStep ts s).iv = s.iv ∨
    (deltaOf ts s ≤ s.cfg.gapThreshold ∧ (edgeStep ts s).iv = s.iv.set s.count (deltaOf ts s / s.cfg.ratio)) := by
  rcases edgeStep_cases ts s with ⟨_, _, e⟩ | ⟨_, _, e⟩ | ⟨_, _, e⟩ | ⟨_, hd, e⟩ <;> rw [e]
  iterate 3 exact .inl rfl
  exact .inr ⟨hd, edgeSample_iv ts _ _⟩

/-- Settles O20: the one sample that may be new is an interval within GAP_THRESHOLD divided by RATIO. -/
theorem storedSamplesFit : Obligations.StoredSamplesFit := by
  intro s ts t hw hfit h x hx
  rw [eq_edgeStep_of_exec hw h] at hx
  rcases edgeStep_iv ts s with e | ⟨hd, e⟩ <;> rw [e] at hx
  · exact hfit x hx
  · exact (List.mem_or_eq_of_mem_set hx).elim (hfit x) (· ▸ sample_le hw hd)

/-! ### The frame -/

theorem rawBit_frameBits (iv : List Nat) {i : Nat} (h : i < 18) : rawBit (frameBits iv) i = frameBit iv i := by
  rw [rawBit, frameBits, packBits_getLsbD _ i h]
  simp [List.getD_eq_getElem?_getD, h]

/-- Settles O21: a packed bit is its comparison, and a natural number exceeds half of another when its double does. -/
theorem frameBitsCompareWithHalfTheUnitPeriod : Obligations.FrameBitsCompareWithHalfTheUnitPeriod := by
  intro iv i hi
  refine ⟨rawBit_frameBits iv hi, (rawBit_frameBits iv hi).trans (decide_eq_decide.2 ?_)⟩
  simp only [unitPeriod, sampleAt]
  omega

theorem rejected_iff (c : Config) (iv : List Nat) :
    rejected c iv = true ↔ ∃ k ≤ 16, c.bandLo ≤ pairSum iv k ∧ pairSum iv k ≤ c.bandHi := by
  simp only [rejected, inBand, List.any_eq_true, List.mem_range, Bool.and_eq_true, decide_eq_true_eq, Nat.lt_succ_iff]

/-- The 35th sample of a frame in the interference band ends the frame and leaves the queue alone (40_sampler.md R93, R95). -/
theorem edgeStep_of_rejected {s : State} {ts : Nat} (hs : s.synced = true) (hd : deltaOf ts s ≤ s.cfg.gapThreshold)
    (hc : s.count = 34) (hr : rejected s.cfg (s.iv.set 34 (deltaOf ts s / s.cfg.ratio)) = true) :
    edgeStep ts s = setLabel (endFrame (storeSample (deltaOf ts s) { s with lastTs := ts })) (some (.edge .reject)) := by
  rw [edgeStep_of_synced_no_gap hs hd, edgeSample_of_last (s := { s with lastTs := ts }) ts _ (congrArg (· + 1) hc)]
  exact if_pos (hc ▸ hr)

/-- The 35th sample of any other frame puts the frame in the queue and ends it (40_sampler.md R94, R95). -/
theorem edgeStep_of_not_rejected {s : State} {ts : Nat} (hs : s.synced = true) (hd : deltaOf ts s ≤ s.cfg.gapThreshold)
    (hc : s.count = 34) (hr : rejected s.cfg (s.iv.set 34 (deltaOf ts s / s.cfg.ratio)) = false) :
    edgeStep ts s = setLabel (endFrame (enqueue (acceptedFrame s ts) (storeSample (deltaOf ts s) { s with lastTs := ts })))
      (some (.edge .accept)) := by
  rw [edgeStep_of_synced_no_gap hs hd, edgeSample_of_last (s := { s with lastTs := ts }) ts _ (congrArg (· + 1) hc)]
  exact if_neg (Bool.eq_false_iff.1 (hc ▸ hr))

/-- Settles O22: the test of R93 chooses between the two ends of a frame. -/
theorem edgeRejectsFramesInTheBand : Obligations.EdgeRejectsFramesInTheBand := by
  rintro s ts _ hw hs hd hc rfl
  rw [exec_edge_of_wf ts hw]
  refine ⟨fun hband => ?_, fun hband => ?_⟩
  · rw [edgeStep_of_rejected hs hd hc ((rejected_iff _ _).2 hband), storeSample, hc]
    rfl
  · have hr := Bool.eq_false_iff.2 fun h => hband ((rejected_iff _ _).1 h)
    exact ⟨_, rfl, congrArg State.label (edgeStep_of_not_rejected hs hd hc hr)⟩

/-- Settles O23: the queue takes the finalized frame, whatever the capacity. -/
theorem edgeAcceptFillsTheWriteSlot : Obligations.EdgeAcceptFillsTheWriteSlot := by
  rintro s ts _ _ _ hw - - hs hd hc rfl hr rfl rfl
  rw [exec_edge_of_wf ts hw, edgeStep_of_not_rejected hs hd hc hr, storeSample, acceptedFrame, hc]
  rfl

/-! ### The counters after a frame -/

/-- An EDGE step that ends a frame, accepted or not, clears the counters (40_sampler.md R95). -/
theorem edgeStep_counters_of_finalized {ts : Nat} {s : State}
    (h : (edgeStep ts s).label = some (.edge .accept) ∨ (edgeStep ts s).label = some (.edge .reject)) :
    (edgeStep ts s).count = 0 ∧ (edgeStep ts s).synced = false := by
  rcases edgeStep_cases ts s with ⟨_, _, e⟩ | ⟨_, _, e⟩ | ⟨_, _, e⟩ | ⟨_, _, e⟩ <;>
    rw [e] at h ⊢
  iterate 3 exact h.elim nofun nofun
  rcases edgeSample_cases ts (deltaOf ts s) { s with lastTs := ts } with ⟨_, e⟩ | ⟨_, _, e⟩ | ⟨_, _, e⟩ <;>
    rw [e] at h ⊢
  · exact h.elim nofun nofun
  · exact ⟨rfl, rfl⟩
  · exact ⟨rfl, rfl⟩

/-- Only an interval above GAP_THRESHOLD synchronizes the sampler (40_sampler.md R83, R84). -/
theorem edgeStep_synced_iff_of_unsynced {s : State} (ts : Nat) (hs : s.synced = false) :
    (edgeStep ts s).synced = true ↔ s.cfg.gapThreshold < deltaOf ts s := by
  rcases Nat.lt_or_ge s.cfg.gapThreshold (deltaOf ts s) with hd | hd
  · rw [edgeStep_of_unsynced_gap hs hd]
    exact iff_of_true rfl hd
  · rw [edgeStep_of_unsynced_no_gap hs hd]
    exact iff_of_false (Bool.eq_false_iff.1 hs) hd.not_gt

/-- Settles O24: the counters are cleared, so the next edge finds the sampler unsynchronized. -/
theorem finalizationClearsTheCounters : Obligations.FinalizationClearsTheCounters := by
  intro s t ts hw h hlabel
  obtain rfl := eq_edgeStep_of_exec hw h
  obtain ⟨hcount, hsynced⟩ := edgeStep_counters_of_finalized hlabel
  obtain ⟨hcfg, -⟩ := edgeStep_frame ts s
  refine ⟨hcount, hsynced, fun next u hnext => ?_⟩
  rw [eq_edgeStep_of_exec (hcfg ▸ hw) hnext]
  exact edgeStep_synced_iff_of_unsynced next hsynced

end Sys2Proof.Machine

/-! PROOFS. The queue (41_queue.md R100 to R104): what its two observation requests answer, and that the newest N of the frames
accepted since RESET stand in their slots, by one lemma for an acceptance and one for every other part of a step. -/

namespace Sys2Proof.Machine

/-! ### Retention of accepted frames -/

/-- A slot record holds the capture fields of a frame (10_state.md R33). -/
def Holds (r : Slot) (f : Frame) : Prop := r.raw = f.raw ∧ r.dur = f.dur ∧ r.kind = f.kind

theorem holds_fillSlot (f : Frame) (r : Slot) : Holds (fillSlot f r) f := ⟨rfl, rfl, rfl⟩

/-- The relation `Retains` with a property `P` of the lifecycle states of the newest N - 1 frames' slots. -/
structure RetainsWith (P : Lifecycle → Prop) (s : State) (fs : List Frame) : Prop where
  wp_eq : s.wp = fs.length % s.cfg.capacity
  kept : ∀ j f, fs[j]? = some f → fs.length ≤ j + s.cfg.capacity → Holds (slotGet s (j % s.cfg.capacity)) f
  state : ∀ j f, fs[j]? = some f → fs.length < j + s.cfg.capacity → P (slotGet s (j % s.cfg.capacity)).state

theorem retains_iff {s : State} {fs : List Frame} : Retains s fs ↔ RetainsWith (· ≠ .capturing) s fs :=
  ⟨fun h => ⟨h.wp_eq, h.kept, h.not_capturing⟩, fun h => ⟨h.wp_eq, h.kept, h.state⟩⟩

/-- With no frame accepted, the write pointer at 0 is all there is to retain. -/
theorem RetainsWith.nil {s : State} (P : Lifecycle → Prop) (h : s.wp = 0) : RetainsWith P s [] where
  wp_eq := h.trans (Nat.zero_mod _).symm
  kept _ _ hf := by cases hf
  state _ _ hf := by cases hf

/-- Two numbers less than `n` apart are not congruent modulo `n`. -/
theorem mod_ne_mod_of_lt {n j m : Nat} (h : j < m) (h' : m < j + n) : j % n ≠ m % n := fun heq =>
  absurd (Nat.le_of_dvd (Nat.sub_pos_of_lt h) ((Nat.modEq_iff_dvd' h.le).1 heq)) (by omega)

theorem getElem?_concat_some {fs : List Frame} {f g : Frame} {j : Nat} (h : (fs ++ [f])[j]? = some g) :
    (j < fs.length ∧ fs[j]? = some g) ∨ (j = fs.length ∧ g = f) := by
  rw [List.getElem?_append, List.getElem?_singleton] at h
  split at h
  · next hj => exact .inl ⟨hj, h⟩
  · split at h
    · exact .inr ⟨by omega, (Option.some.inj h).symm⟩
    · cases h

/-- An acceptance appends its frame: it fills the slot of frame `m`, and of the older frames only the one that leaves the
newest N - 1 has its slot taken over (40_sampler.md R94, 41_queue.md R102, R103). -/
theorem RetainsWith.enqueue {P : Lifecycle → Prop} {s : State} {fs : List Frame} (h : RetainsWith P s fs)
    (hP : P .readyToDecode) (hlen : s.slots.length = s.cfg.capacity) (hn : 0 < s.cfg.capacity) (f : Frame) :
    RetainsWith P (enqueue f s) (fs ++ [f]) := by
  have hnext : nextIndex s.cfg.capacity s.wp = (fs.length + 1) % s.cfg.capacity := by
    rw [nextIndex, h.wp_eq, Nat.mod_add_mod]
  have hwp : s.wp < s.cfg.capacity := h.wp_eq ▸ Nat.mod_lt _ hn
  have hget (j : Nat) := slotGet_enqueue f (hwp.trans_eq hlen.symm) ((nextIndex_lt _ hn).trans_eq hlen.symm)
    (j % s.cfg.capacity)
  rw [hnext, h.wp_eq] at hget
  refine ⟨?_, fun j g hg hle => ?_, fun j g hg hlt => ?_⟩
  · rw [enqueue_wp, enqueue_cfg, hnext, List.length_append, List.length_singleton]
  · rw [enqueue_cfg, List.length_append, List.length_singleton] at hle
    rw [enqueue_cfg, hget]
    rcases getElem?_concat_some hg with ⟨hj, hg⟩ | ⟨rfl, rfl⟩
    · rw [if_neg (mod_ne_mod_of_lt hj (by omega))]
      split <;> exact h.kept j g hg (by omega)
    · rw [if_pos rfl]
      split <;> exact holds_fillSlot g (slotGet s (fs.length % s.cfg.capacity))
  · rw [enqueue_cfg, List.length_append, List.length_singleton] at hlt
    have hnot := mod_ne_mod_of_lt (by simpa using (List.getElem?_eq_some_iff.1 hg).1) hlt
    rw [enqueue_cfg, hget, if_neg hnot]
    rcases getElem?_concat_some hg with ⟨hj, hg⟩ | ⟨rfl, rfl⟩
    · rw [if_neg (mod_ne_mod_of_lt hj (by omega))]
      exact h.state j g hg (by omega)
    · rw [if_pos rfl]
      exact hP

theorem RetainsWith.enqueueAll {P : Lifecycle → Prop} (hP : P .readyToDecode) (gs : List Frame) {s : State} {fs : List Frame}
    (h : RetainsWith P s fs) (hs : storesWf s = true) (hn : 0 < s.cfg.capacity) :
    RetainsWith P (enqueueAll s gs) (fs ++ gs) := by
  induction gs generalizing s fs with
  | nil => rwa [List.append_nil]
  | cons f gs ih =>
    rw [List.append_cons]
    exact ih (h.enqueue hP ((storesWf_iff s).1 hs).1 hn f) (storesWf_enqueue f hs) hn

theorem enqueueAll_cfg (s : State) (fs : List Frame) : (enqueueAll s fs).cfg = s.cfg := by
  induction fs generalizing s with
  | nil => rfl
  | cons f fs ih => exact ih (enqueue f s)

theorem capacity_pos {c : Config} (h : c.wf = true) : 0 < c.capacity :=
  ((wellFormedConfigurationConditions c).1 h).1

/-- Settles O56: every acceptance in the row appends its frame. -/
theorem newestFramesAreRetained : Obligations.NewestFramesAreRetained := by
  intro c fs hc
  have h : RetainsWith (.readyToDecode = ·) (enqueueAll (State.resetOf c) fs) ([] ++ fs) :=
    (RetainsWith.nil _ rfl).enqueueAll rfl fs (storesWf_resetOf c) (capacity_pos hc)
  obtain ⟨hwp, hkept, hstate⟩ := h
  rw [enqueueAll_cfg] at *
  refine ⟨hwp, fun j f hf hle => ?_⟩
  obtain ⟨hraw, hdur, hkind⟩ := hkept j f hf hle
  exact ⟨hraw, hdur, hkind, fun hlt => (hstate j f hf hlt).symm⟩

/-! ### Retention through every step -/

/-- The relation reads the capacity and the write pointer, and of each slot its capture fields and whether it is Capturing. -/
theorem Retains.congr {s u : State} {fs : List Frame} (h : Retains s fs) (hc : u.cfg = s.cfg) (hw : u.wp = s.wp)
    (hslots : ∀ j, (∀ f, Holds (slotGet s j) f → Holds (slotGet u j) f) ∧
      ((slotGet s j).state ≠ .capturing → (slotGet u j).state ≠ .capturing)) : Retains u fs where
  wp_eq := by
    rw [hw, hc]
    exact h.wp_eq
  kept j f hf := by
    rw [hc]
    exact fun hle => (hslots _).1 f (h.kept j f hf hle)
  not_capturing j f hf := by
    rw [hc]
    exact fun hlt => (hslots _).2 (h.not_capturing j f hf hlt)

theorem Retains.of_slots_eq {s u : State} {fs : List Frame} (h : Retains s fs) (hc : u.cfg = s.cfg) (hw : u.wp = s.wp)
    (hs : u.slots = s.slots) : Retains u fs :=
  h.congr hc hw fun j => by
    rw [slotGet_of_slots hs]
    exact ⟨fun _ => id, id⟩

/-- The CONSUMER never writes a capture field (42_decoder.md R132). -/
theorem ConsumerWrite.holds {c : Config} {r r' : Slot} {f : Frame} (h : ConsumerWrite c r r') (hf : Holds r f) :
    Holds r' f := by
  cases h <;> exact hf

theorem Retains.afterConsumer {s u : State} {fs : List Frame} (h : Retains s fs) (hr : SameRegisters s u)
    (hs : SlotsAfterConsumer s u) : Retains u fs := by
  rcases hs with hs | ⟨i, r, hi, hwrite, hs⟩
  · exact h.of_slots_eq hr.cfg hr.wp hs
  · refine h.congr hr.cfg hr.wp fun j => ?_
    rw [slotGet_of_set hs hi]
    split
    · next hj => exact hj ▸ ⟨fun _ => hwrite.holds, fun _ => hwrite.not_capturing.2⟩
    · exact ⟨fun _ => id, id⟩

/-- RESET empties the list (10_state.md R41). -/
theorem TookReset.retains_nil {s t : State} (hc : s.cfg.wf = true) (h : TookReset s t) : Retains t [] := by
  obtain ⟨a, rest, w, ws, _, _, _, _, _, he⟩ := h
  rcases guarded_next he with ⟨_, rfl⟩ | ⟨hw, _⟩
  · exact retains_iff.2 (.nil _ rfl)
  · rw [setPort_cfg] at hw
    exact absurd (hc.symm.trans hw) (by decide)

/-- An accepted EDGE appends the frame it finalizes (40_sampler.md R94). -/
theorem AcceptedEdge.retains_append {s t : State} {ts : Nat} {fs : List Frame} (hinv : Machine.Inv s) (hr : Retains s fs)
    (h : AcceptedEdge s t ts) : Retains t (fs ++ [acceptedFrame s ts]) := by
  obtain ⟨⟨a, rest, w, ws, _, _, _, _, _, he⟩, hl⟩ := h
  obtain rfl := eq_edgeStep_of_exec (by rw [setPort_cfg]; exact hinv.cfg_wf) he
  have hfull := retains_iff.2 ((retains_iff.1 hr).enqueue (by decide) hinv.queue.length_eq (Nat.zero_lt_of_lt hinv.queue.wp_lt)
    (acceptedFrame s ts))
  rcases edgeStep_queue ts (setPort { s with schedule := rest } a ws) with ⟨_, _, hno⟩ | ⟨_, hw, hs⟩
  · exact absurd hl hno
  · obtain ⟨hcfg, -⟩ := edgeStep_frame ts (setPort { s with schedule := rest } a ws)
    refine hfull.of_slots_eq (hcfg.trans (setPort_cfg ..)) (hw.trans ?_) (hs.trans ?_)
    · rw [setPort_cfg, setPort_wp, enqueue_wp]
    · cases a <;> rfl

/-- A step that is neither a RESET nor an accepted EDGE leaves every frame in its slot. -/
theorem Retains.of_other_step {s t : State} {fs : List Frame} (hinv : Machine.Inv s) (hr : Retains s fs) (h : step s = .next t)
    (hreset : ¬TookReset s t) (hedge : ∀ ts, ¬AcceptedEdge s t ts) : Retains t fs := by
  rcases step_took h with ⟨_, rfl⟩ | ⟨rest, _, _, hp⟩ | ⟨i, took⟩ | ⟨a, rest, w, ws, _, _, _, _, _, rfl⟩
  · exact hr
  · obtain ⟨hregs, hslots⟩ := passStep_writes (s := { s with schedule := rest }) hinv.queue.length_eq hp
    exact Retains.afterConsumer (hr.of_slots_eq rfl rfl rfl) hregs hslots
  · have took' := took
    obtain ⟨a, rest, w, ws, _, _, _, _, hd, he⟩ := took'
    have hport : Retains (setPort { s with schedule := rest } a ws) fs :=
      hr.of_slots_eq (setPort_cfg ..) (setPort_wp ..) (setPort_slots ..)
    rcases exec_request_cases (formatOf_decodeCmd hd) he with ⟨hregs, hs, _⟩ | ⟨ts, rfl, rfl⟩ | ⟨rfl, _⟩
    · exact hport.of_slots_eq hregs.cfg hregs.wp hs
    · rcases edgeStep_queue ts (setPort { s with schedule := rest } a ws) with ⟨hs, hw, _⟩ | ⟨hl, _⟩
      · obtain ⟨hcfg, -⟩ := edgeStep_frame ts (setPort { s with schedule := rest } a ws)
        exact hport.of_slots_eq hcfg hw hs
      · exact absurd ⟨took, hl⟩ (hedge ts)
    · exact absurd took hreset
  · exact hr.of_slots_eq (setPort_cfg ..) (setPort_wp ..) (setPort_slots ..)

/-- Settles O59: a RESET, an accepted EDGE and any other step, each by its own lemma. -/
theorem everyStepRetainsTheNewestFrames : Obligations.EveryStepRetainsTheNewestFrames :=
  ⟨fun _ _ => retains_iff.2 (.nil _ rfl), fun _ _ _ hinv hr h =>
    ⟨fun who => who.retains_nil hinv.cfg_wf, fun _ who => who.retains_append hinv hr, hr.of_other_step hinv h⟩⟩

/-! ### The observation requests -/

/-- A consumer request answers its effect when the cursor is Idle. -/
theorem guarded_whenIdle_of_idle {s : State} (t : State) (hw : s.cfg.wf = true) (hp : s.cphase = .idle) :
    guarded s (whenIdle s t) = .next t := by
  rw [guarded_of_wf _ hw, whenIdle_of_idle t hp]

/-- A consumer request waits while a pass is in progress (43_consumer.md R143). -/
theorem guarded_whenIdle_of_pass {s : State} (t : State) (hw : s.cfg.wf = true) (hp : s.cphase ≠ .idle) :
    guarded s (whenIdle s t) = .next s := by
  rw [guarded_of_wf _ hw, whenIdle_of_pass t hp]

/-- Settles O28: the word holds the opcode and the operand, and the request is one effect of an Idle cursor. -/
theorem slotAtRespondsWithTheRecord : Obligations.SlotAtRespondsWithTheRecord := fun _ _ hw =>
  ⟨decodeCmd_operand_word (by decide), guarded_whenIdle_of_idle _ hw, guarded_whenIdle_of_pass _ hw⟩

theorem zextWritePtr_of_lt {c : Config} {wp : Nat} (h : wp < 2 ^ c.tsWidth) : zextWritePtr c wp = wp := if_pos h

theorem zextWritePtr_lt (c : Config) (wp : Nat) : zextWritePtr c wp < 2 ^ c.tsWidth := by
  unfold zextWritePtr
  split
  · assumption
  · exact (Config.freeZext c.tsWidth wp).isLt

/-- Settles O29: the response is the zero-extended write pointer. -/
theorem writePtrRespondsWithTheWritePointer : Obligations.WritePtrRespondsWithTheWritePointer := fun s hw hp =>
  ⟨zextWritePtr s.cfg s.wp, guarded_whenIdle_of_idle _ hw hp, zextWritePtr_of_lt, zextWritePtr_lt s.cfg s.wp⟩

end Sys2Proof.Machine

/-! PROOFS. Small queues (42_decoder.md R129): with at most two slots the predecessor of a ReadyToDecode slot is the write slot,
which is Capturing and confirms nothing, so no step makes a slot Validated. -/

namespace Sys2Proof.Machine

/-- With at most two slots, a slot's predecessor is the other slot. -/
theorem prevIndex_eq_of_ne {n i w : Nat} (hn : n ≤ 2) (hi : i < n) (hw : w < n) (hne : i ≠ w) : prevIndex n i = w := by
  have hlt := prevIndex_lt i (Nat.zero_lt_of_lt hi)
  have hprev := prevIndex_ne (by omega : 2 ≤ n) hi
  omega

/-- With at most two slots no predecessor confirms a ReadyToDecode slot. -/
theorem QueueInv.confirmed_eq_false {s : State} {i : Nat} (h : QueueInv s) (hn : s.cfg.capacity ≤ 2)
    (hi : i < s.cfg.capacity) (hr : (slotGet s i).state = .readyToDecode) (raw : RawBits) :
    confirmed s i raw = false := by
  have hne : i ≠ s.wp := fun hw => by cases hr.symm.trans ((h.capturing i hi).2 hw)
  have hcapturing := (h.capturing s.wp h.wp_lt).2 rfl
  rw [confirmed, prevIndex_eq_of_ne hn hi h.wp_lt hne, if_neg hne.symm, confirms, hcapturing]
  rfl

theorem NoValidated.edgeStep {s : State} (ts : Nat) (h : NoValidated s) : NoValidated (edgeStep ts s) := by
  unfold NoValidated
  rcases edgeStep_queue ts s with ⟨hs, _⟩ | ⟨_, _, hs⟩ <;> rw [hs]
  · exact h
  · exact forall_slots_set (forall_slots_set h nofun) nofun

theorem noValidated_resetRegisters (s : State) : NoValidated (resetRegisters s) := by
  intro r hr
  obtain ⟨i, _, rfl⟩ := List.mem_map.1 hr
  cases i <;> nofun

/-- A slot step makes a slot Validated only if its predecessor confirms it (42_decoder.md R123). -/
theorem NoValidated.slotStepSpec {s : State} {i : Nat} (b : Bool) (h : NoValidated s)
    (hc : (slotGet s i).state = .readyToDecode → confirmed s i (slotGet s i).raw = false) :
    NoValidated (slotStepSpec s i b) := by
  by_cases hr : (slotGet s i).state = .readyToDecode
  · cases hd : decodeFails (slotGet s i).kind (slotGet s i).raw with
    | true =>
      rw [slotStepSpec_of_fails b hr hd]
      exact forall_slots_set h nofun
    | false =>
      rw [slotStepSpec_of_not_fails b hr hd]
      exact forall_slots_set h (by simp [hc hr])
  · rw [slotStepSpec_of_not_ready b hr]
    exact h

theorem NoValidated.endPass {s : State} (b : Bool) (h : NoValidated s) : NoValidated (endPass b s) := by
  cases b with
  | false => exact h
  | true =>
    cases hf : firstValidated s with
    | none =>
      rw [show Machine.endPass true s = _ from selectStep_of_none hf]
      exact h
    | some i =>
      obtain ⟨hi, hv, _⟩ := firstValidated_some hf
      exact absurd hv (h _ (slotGet_mem s hi))

/-- The invariant of a queue of at most two slots. -/
structure SmallQueueInv (s : State) : Prop where
  queue : QueueInv s
  capacity_le : s.cfg.capacity ≤ 2
  noValidated : NoValidated s

theorem SmallQueueInv.request {s u : State} {i : Instr} (h : SmallQueueInv s) (hq : QueueInv u) (hi : formatOf i = .cmd)
    (he : exec i s = .next u) : SmallQueueInv u := by
  rcases exec_request_cases hi he with ⟨hr, hs, _⟩ | ⟨ts, _, rfl⟩ | ⟨_, rfl⟩
  · exact ⟨hq, hr.cfg ▸ h.capacity_le, fun r hr' => h.noValidated r (hs ▸ hr')⟩
  · obtain ⟨hcfg, -⟩ := edgeStep_frame ts s
    exact ⟨hq, hcfg ▸ h.capacity_le, h.noValidated.edgeStep ts⟩
  · exact ⟨hq, h.capacity_le, noValidated_resetRegisters s⟩

theorem SmallQueueInv.pass {s u : State} (h : SmallQueueInv s) (hq : QueueInv u) (hp : passStep s = .next u) :
    SmallQueueInv u := by
  obtain ⟨hr, -⟩ := passStep_writes h.queue.length_eq hp
  refine ⟨hq, hr.cfg ▸ h.capacity_le, ?_⟩
  rcases passStep_next h.queue.length_eq hp with ⟨_, rfl⟩ | ⟨_, rfl⟩ | ⟨i, b, _, hi, rfl⟩ | ⟨i, b, _, _, rfl⟩
  · exact h.noValidated
  · exact h.noValidated
  · exact h.noValidated.slotStepSpec b fun hready => h.queue.confirmed_eq_false h.capacity_le hi hready _
  · exact h.noValidated.endPass b

theorem smallQueueInv_kept : KeptByParts SmallQueueInv where
  turn rest h := ⟨queueInv_kept.turn rest h.queue, h.capacity_le, h.noValidated⟩
  word a ws h := ⟨queueInv_kept.word a ws h.queue, by rw [setPort_cfg]; exact h.capacity_le,
    by rw [NoValidated, setPort_slots]; exact h.noValidated⟩
  refuse h := ⟨queueInv_kept.refuse h.queue, h.capacity_le, h.noValidated⟩
  request h hd he := h.request (queueInv_kept.request h.queue hd he) (formatOf_decodeCmd hd) he
  pass h hp := h.pass (queueInv_kept.pass h.queue hp) hp

/-- Settles O55: every part of a step keeps the invariant of a queue of at most two slots. -/
theorem smallCapacityNeverValidates : Obligations.SmallCapacityNeverValidates :=
  fun _ _ hq hn hv h => (smallQueueInv_kept.step ⟨hq, hn, hv⟩ h).noValidated

end Sys2Proof.Machine

/-! PROOFS. The steps of a pass (42_decoder.md R110 to R112, R126): the issue steps, a skip, the pass end, and that a whole pass in
a row leaves no slot to decode. -/

namespace Sys2Proof.Machine

/-! ### The steps of a pass -/

theorem passStep_of_not_ready {s : State} {i : Nat} {b : Bool} (hw : s.cfg.wf = true) (hp : s.cphase = .pass i b)
    (hi : i < s.cfg.capacity) (hr : (slotGet s i).state ≠ .readyToDecode) : passStep s = .next (afterSkip s i b) := by
  rw [passStep, hp]
  refine (if_pos hi).trans ((if_neg hr).trans ?_)
  rw [passSkip, guarded_of_wf _ hw, skipStep, hp]
  rfl

theorem passStep_of_end {s : State} {b : Bool} (hw : s.cfg.wf = true) (hp : s.cphase = .pass s.cfg.capacity b) :
    passStep s = .next (endPass b s) := by
  rw [passStep, hp]
  exact (if_neg (Nat.lt_irrefl _)).trans (guarded_of_wf _ hw)

theorem passStep_of_readyAt {s : State} {i : Nat} {b : Bool} (h : ReadyAt s i b) :
    passStep s = .next (slotStepSpec s i b) := by
  rw [passStep, h.phase]
  exact (if_pos h.lt).trans ((if_pos h.ready).trans (exec_class_eq_slotStepSpec h (decodeTelegram_mem_classesOf _ _)))

/-- Settles O30: an issue step is one effect of an Idle cursor. -/
theorem issueStepsSetTheCursor : Obligations.IssueStepsSetTheCursor := fun _ hw hp =>
  ⟨guarded_whenIdle_of_idle _ hw hp, guarded_whenIdle_of_idle _ hw hp⟩

/-- Settles O32: the step is the skip of the slot that the cursor names. -/
theorem slotStepSkipsOtherStates : Obligations.SlotStepSkipsOtherStates := fun _ _ _ => passStep_of_not_ready

/-- Settles O33: past the last slot the step is the end of the pass. -/
theorem passEndRespondsDone : Obligations.PassEndRespondsDone := fun _ => passStep_of_end

/-! ### A whole pass -/

/-- A pass under a well-formed configuration has reached slot `i` and has left no slot before it to decode. -/
structure PassAt (s : State) (i : Nat) (b : Bool) : Prop where
  cfg_wf : s.cfg.wf = true
  len : s.slots.length = s.cfg.capacity
  phase : s.cphase = .pass i b
  processed : ∀ j < i, (slotGet s j).state ≠ .readyToDecode

theorem PassAt.passStep_eq {s : State} {i : Nat} {b : Bool} (h : PassAt s i b) (hi : i < s.cfg.capacity) :
    passStep s = .next (slotStepSpec s i b) := by
  by_cases hr : (slotGet s i).state = .readyToDecode
  · exact passStep_of_readyAt ⟨h.cfg_wf, h.len, h.phase, hi, hr⟩
  · rw [slotStepSpec_of_not_ready b hr]
    exact passStep_of_not_ready h.cfg_wf h.phase hi hr

/-- A slot step writes no slot but the one the cursor names. -/
theorem slotGet_slotStepSpec_ne {s : State} {i j : Nat} (b : Bool) (hj : j ≠ i) :
    slotGet (slotStepSpec s i b) j = slotGet s j := by
  by_cases hr : (slotGet s i).state = .readyToDecode
  · cases hd : decodeFails (slotGet s i).kind (slotGet s i).raw with
    | true =>
      rw [slotStepSpec_of_fails b hr hd]
      exact slotGet_slotSet_ne s _ hj.symm
    | false =>
      rw [slotStepSpec_of_not_fails b hr hd]
      exact slotGet_slotSet_ne s _ hj.symm
  · rw [slotStepSpec_of_not_ready b hr]
    rfl

theorem SlotsAfterConsumer.length_eq {s u : State} (h : SlotsAfterConsumer s u) : u.slots.length = s.slots.length := by
  rcases h with hs | ⟨i, r, _, _, hs⟩
  · rw [hs]
  · rw [hs, List.length_set]

theorem PassAt.slotStepSpec {s : State} {i : Nat} {b : Bool} (h : PassAt s i b) (hi : i < s.cfg.capacity) :
    PassAt (slotStepSpec s i b) (i + 1) b := by
  obtain ⟨hregs, hslots⟩ := slotStepSpec_writes b (h.len ▸ hi)
  refine ⟨hregs.cfg ▸ h.cfg_wf, ?_, slotStepSpec_cphase s i b, fun j hj => ?_⟩
  · rw [hslots.length_eq, hregs.cfg, h.len]
  · rcases Nat.lt_succ_iff_lt_or_eq.1 hj with hlt | rfl
    · rw [slotGet_slotStepSpec_ne b hlt.ne]
      exact h.processed j hlt
    · exact slotStepSpec_not_ready b (h.len ▸ hi)

/-- A turn of the CONSUMER in a pass is a step of the pass. -/
theorem consumerRun_succ_of_pass {s u : State} {i : Nat} {b : Bool} (hp : s.cphase = .pass i b)
    (h : passStep s = .next u) (n : Nat) : consumerRun (n + 1) s = consumerRun n u := by
  rw [consumerRun, agentStep, if_pos ⟨rfl, by simp [inPass, hp]⟩, h]

/-- As many turns as slots are left bring the cursor past the last slot. -/
theorem PassAt.consumerRun_rest {n i : Nat} {s : State} {b : Bool} (h : PassAt s i b) (hn : i + n = s.cfg.capacity) :
    ∃ t, consumerRun n s = .next t ∧ t.cfg = s.cfg ∧ PassAt t s.cfg.capacity b := by
  induction n generalizing s i with
  | zero => exact ⟨s, rfl, rfl, hn ▸ h⟩
  | succ n ih =>
    have hi : i < s.cfg.capacity := by omega
    obtain ⟨hregs, -⟩ := slotStepSpec_writes b (h.len ▸ hi)
    obtain ⟨t, hrun, hcfg, ht⟩ := ih (h.slotStepSpec hi) (by rw [hregs.cfg]; omega)
    rw [hregs.cfg] at hcfg ht
    exact ⟨t, (consumerRun_succ_of_pass h.phase (h.passStep_eq hi) n).trans hrun, hcfg, ht⟩

/-- Turns that find no slot to decode move the cursor and set the label. -/
theorem consumerRun_of_not_ready {n i : Nat} {s : State} {b : Bool} (hw : s.cfg.wf = true) (hp : s.cphase = .pass i b)
    (hn : i + n ≤ s.cfg.capacity) (hr : ∀ j < s.cfg.capacity, (slotGet s j).state ≠ .readyToDecode) :
    ∃ l, consumerRun n s = .next { s with cphase := .pass (i + n) b, label := l } := by
  induction n generalizing s i with
  | zero => exact ⟨s.label, by rw [Nat.add_zero, ← hp]; rfl⟩
  | succ n ih =>
    have hi : i < s.cfg.capacity := by omega
    have hsum : i + 1 + n = i + (n + 1) := by omega
    obtain ⟨l, hrun⟩ := ih (s := afterSkip s i b) hw rfl (hsum.trans_le hn) hr
    rw [hsum] at hrun
    exact ⟨l, (consumerRun_succ_of_pass hp (passStep_of_not_ready hw hp hi (hr i hi)) n).trans hrun⟩

/-- Settles O57: the first pass decodes every slot it reaches, and the second finds none to decode. -/
theorem passLeavesNoSlotToDecode : Obligations.PassLeavesNoSlotToDecode := by
  intro s b hw hlen hp
  have hstart : PassAt s 0 b := ⟨hw, hlen, hp, fun j hj => absurd hj (Nat.not_lt_zero j)⟩
  obtain ⟨t, hrun, hcfg, ht⟩ := hstart.consumerRun_rest (Nat.zero_add _)
  rw [← hcfg] at ht
  obtain ⟨l, hagain⟩ := consumerRun_of_not_ready (n := t.cfg.capacity) (s := { t with cphase := .pass 0 b }) ht.cfg_wf rfl
    (Nat.zero_add _).le ht.processed
  refine ⟨t, hrun, hcfg ▸ ht.phase, fun r hr => ?_, l, ?_⟩
  · obtain ⟨i, hi, rfl⟩ := exists_slotGet hr
    exact ht.processed i (ht.len ▸ hi)
  · rw [← hcfg, hagain, Nat.zero_add, ← ht.phase]

end Sys2Proof.Machine

/-! PROOFS. The telegram classes (42_decoder.md R114 to R125): the fields each class sets in the slot of the pass, the duplicate
check, and that the capture fields stay. -/

namespace Sys2Proof.Machine

/-! ### Magnet telegrams -/

theorem subCode_eq (raw : RawBits) :
    subCode raw = (rawBit raw 10).toNat + 2 * (rawBit raw 12).toNat + 4 * (rawBit raw 14).toNat := by
  simp [subCode, rawNat, Nat.mul_comm]

theorem decodeTelegram_magnet (raw : RawBits) : decodeTelegram .magnet raw = baseClass .magnet raw := if_neg nofun

/-- Settles O35: MAG writes the magnet fields over the variant and the address. -/
theorem magnetTelegramDecodes : Obligations.MagnetTelegramDecodes := by
  intro s i b raw hready _ _ h8
  rw [← subCode_eq]
  exact ⟨(decodeTelegram_magnet raw).trans (by rw [baseClass, h8]; rfl), decodes_ready _ raw hready⟩

/-- Settles O36: MAG_BAD writes the variant and the address, and its decode fails. -/
theorem badMagnetTelegramIsInvalid : Obligations.BadMagnetTelegramIsInvalid := by
  intro s i b raw hready _ _ h8
  refine ⟨(decodeTelegram_magnet raw).trans (by rw [baseClass, h8]; rfl), ?_⟩
  exact (guarded_of_wf _ hready.cfg_wf).trans (congrArg _ (slotStep_ready _ hready))

/-! ### Locomotive telegrams -/

/-- The extended part of a decode does not depend on the speed part (42_decoder.md R120). -/
theorem extFields_speedFields (c : Config) (n : Nat) (raw : RawBits) :
    extFields raw (speedFields n (locFields c raw)) = speedFields n (locDerived c raw) := by
  rw [speedFields_eq n rfl rfl rfl, speedFields_eq n rfl rfl rfl, extFields]
  cases he : ext raw with
  | true =>
    rw [if_pos rfl, extMap_eq_table raw rfl rfl rfl]
    simp [locFields, setFunction, commonFields, locDerived, he]
  | false => simp [locFields, setFunction, commonFields, locDerived, Derived.default, he]

/-- The speed code selects the base class, which sets the speed field of the code (42_decoder.md R119). -/
theorem locClass_of_speedCode {s : State} {i n : Nat} {b : Bool} {raw : RawBits} (h : ReadyAt s i b)
    (hn : speedCode raw = n) :
    baseClass .locomotive raw = locClass n raw ∧
    exec (locClass n raw) s = .next (afterDecode s i b raw (speedFields n (locDerived s.cfg raw))) := by
  subst hn
  refine ⟨rfl, ?_⟩
  rw [exec_locClass (speedCode_lt raw), decodesLoc, decodes_ready _ raw h, extFields_speedFields]

theorem speedFields_of_two_le {n : Nat} (hn : 2 ≤ n) (d : Derived) :
    speedFields n d = { d with speedStep := BitVec.ofNat 4 (n - 1) } :=
  (if_neg (by omega)).trans (if_neg (by omega))

/-- Settles O37: each class is the base class of its speed code. -/
theorem locomotiveClassesSetTheirSpeedField : Obligations.LocomotiveClassesSetTheirSpeedField := by
  intro s i b raw h _ _
  refine ⟨rfl, locClass_of_speedCode h, locClass_of_speedCode h, fun n p hmem hn => ?_⟩
  have hrow : (n, p) ∈ (List.range' 2 14).map fun m => (m, locClass m raw) := hmem
  obtain ⟨_, hm, rfl, rfl⟩ := List.mem_map.1 hrow
  rw [← speedFields_of_two_le (List.left_le_of_mem_range' hm)]
  exact locClass_of_speedCode h hn

/-! ### Extended telegrams -/

theorem speedFields_locFields (c : Config) (raw : RawBits) :
    speedFields (speedCode raw) (locFields c raw) = speedDerived c raw :=
  speedFields_eq _ rfl rfl rfl

/-- The sub-class of a telegram writes the extended fields of its code over the fields of its speed code. -/
theorem exec_extClass_ready {s : State} {i : Nat} {b : Bool} (raw : RawBits) (h : ReadyAt s i b) :
    exec (extClass raw) s = .next (afterDecode s i b raw (extMap raw (speedDerived s.cfg raw))) := by
  rw [exec_extClass_eq, decodesExt, speedFields_locFields, decodes_ready _ raw h]

/-- The on flag of an extended function is the low bit of the extended code (42_decoder.md R120). -/
theorem rawBit_seventeen_eq (raw : RawBits) : rawBit raw 17 = decide (extCode raw % 2 = 1) := by
  have hbit : extCode raw % 2 = rawNat raw 17 := by
    have hle := rawNat_le raw 17
    unfold extCode
    omega
  rw [hbit, rawNat]
  cases rawBit raw 17 <;> rfl

/-- The rows of the extended functions: the even code, the function and the sub-class (42_decoder.md R120). -/
theorem extRow_of_function {raw : RawBits} {n : Nat} {f : ExtFunc} {p : Instr}
    (hrow : (n, f, p) ∈ [(2, ExtFunc.f2, Instr.extFunc2 raw), (6, .f3, .extFunc3 raw), (12, .f1, .extFunc1 raw),
      (14, .f4, .extFunc4 raw)]) (hn : extCode raw = n ∨ extCode raw = n + 1) :
    extClass raw = p ∧
    ∀ d, extMap raw d = { d with extFuncIndex := f, extFuncOn := decide (extCode raw % 2 = 1) } := by
  have hset : ∀ d, setExtFunc f raw d = { d with extFuncIndex := f, extFuncOn := decide (extCode raw % 2 = 1) } :=
    fun d => by rw [← rawBit_seventeen_eq, setExtFunc]
  -- Each row has the code n and the code n + 1.
  simp only [← hset, List.mem_cons, Prod.mk.injEq, List.not_mem_nil, or_false] at hrow ⊢
  rcases hrow with ⟨rfl, rfl, rfl⟩ | ⟨rfl, rfl, rfl⟩ | ⟨rfl, rfl, rfl⟩ | ⟨rfl, rfl, rfl⟩ <;> rcases hn with hn | hn <;>
    simp [extClass, extMap, hn]

/-- The rows of the extended directions, and those that set no extended field (42_decoder.md R120, R121). -/
theorem extRow_of_direction {raw : RawBits} {n : Nat} {x : ExtDir} {p : Instr}
    (hrow : (n, x, p) ∈ [(4, ExtDir.forward, Instr.extFwd raw), (10, .backward, .extBwd raw),
      (0, .none, .extNop01 raw), (8, .none, .extNop89 raw)]) (hn : extCode raw = n ∨ extCode raw = n + 1)
    {d : Derived} (hd : d.extDir = .none) :
    extClass raw = p ∧ extMap raw d = { d with extDir := x } := by
  have hnone : { d with extDir := .none } = d := by rw [← hd]
  -- Each row has the code n and the code n + 1.
  simp only [List.mem_cons, Prod.mk.injEq, List.not_mem_nil, or_false] at hrow
  rcases hrow with ⟨rfl, rfl, rfl⟩ | ⟨rfl, rfl, rfl⟩ | ⟨rfl, rfl, rfl⟩ | ⟨rfl, rfl, rfl⟩ <;> rcases hn with hn | hn <;>
    simp [extClass, extMap, setExtDir, hn, hnone]

/-- Settles O38: the extended code selects a row, and its sub-class writes the row's fields. -/
theorem extendedClassesSetTheirFields : Obligations.ExtendedClassesSetTheirFields := by
  intro s i b raw h _ _ _
  refine ⟨rfl, fun n f p hrow hn => ?_, fun n x p hrow hn => ?_⟩
  · obtain ⟨rfl, hmap⟩ := extRow_of_function hrow hn
    exact ⟨rfl, by rw [exec_extClass_ready raw h, hmap]⟩
  · obtain ⟨rfl, hmap⟩ := extRow_of_direction hrow hn (d := speedDerived s.cfg raw) rfl
    exact ⟨rfl, by rw [exec_extClass_ready raw h, hmap]⟩

/-! ### Every class -/

/-- Settles O43: each class of the slot's telegram is the slot step of its raw bits and kind. -/
theorem classesRefineTheSlotStep : Obligations.ClassesRefineTheSlotStep :=
  fun _ _ _ _ => exec_class_eq_slotStepSpec

/-- The predecessor confirms a slot if it is Decoded, or is the slot itself, and holds the same raw bits (42_decoder.md R123). -/
theorem confirmed_iff {s : State} {i : Nat} {raw : RawBits} :
    confirmed s i raw = true ↔
      (prevIndex s.cfg.capacity i = i ∨ (slotGet s (prevIndex s.cfg.capacity i)).state = .decoded) ∧
      (slotGet s (prevIndex s.cfg.capacity i)).raw = raw := by
  unfold confirmed
  split
  · next hp => simp [hp]
  · next hp => simp [confirms, hp]

/-- Settles O40: the slot step validates exactly the slots that their predecessor confirms. -/
theorem duplicateOfADecodedPredecessorValidates : Obligations.DuplicateOfADecodedPredecessorValidates := by
  rintro s i p b h rfl hd
  have hi : i < s.slots.length := h.len ▸ h.lt
  refine ⟨_, passStep_of_readyAt h, ?_⟩
  rw [slotStepSpec_of_not_fails b h.ready hd]
  have hslot := slotGet_afterDecode b (slotGet s i).raw (derivedOf s.cfg (slotGet s i).kind (slotGet s i).raw) hi
  refine ⟨?_, ?_, fun hp => (hslot _).trans (if_neg hp)⟩ <;> rw [hslot, if_pos rfl]
  · rw [← prevIndex, ← confirmed_iff]
    cases confirmed s i (slotGet s i).raw <;> simp
  · cases confirmed s i (slotGet s i).raw <;> simp

/-! ### The capture fields -/

/-- Two slot records hold the same frame (10_state.md R33). -/
def SameCapture (r r' : Slot) : Prop := r'.raw = r.raw ∧ r'.dur = r.dur ∧ r'.kind = r.kind

theorem SameCapture.refl (r : Slot) : SameCapture r r := ⟨rfl, rfl, rfl⟩

theorem slotStep_sameCapture {s : State} {effect : Nat → State → State}
    (he : ∀ i < s.slots.length, ∃ d st l, effect i s = setLabel (slotSet s i (decodedSlot d st (slotGet s i))) l) (j : Nat) :
    SameCapture (slotGet s j) (slotGet (slotStep effect s) j) := by
  rcases slotStep_cases effect s with e | ⟨i, b, _, _, hr, e⟩ | ⟨i, b, _, _, _, e⟩ <;> rw [e]
  · exact .refl _
  · have hi := lt_length_of_ready hr
    obtain ⟨d, st, l, el⟩ := he i hi
    rw [el, slotGet_setPhase, slotGet_setLabel, slotGet_of_set (u := slotSet s i _) rfl hi]
    split
    · next hj => exact hj ▸ ⟨rfl, rfl, rfl⟩
    · exact .refl _
  · exact .refl _

/-- A telegram class is refused, or is a slot step that writes no capture field. -/
theorem exec_sameCapture {i : Instr} {s t : State} (hi : formatOf i = .decodeWord) (h : exec i s = .next t) (j : Nat) :
    SameCapture (slotGet s j) (slotGet t j) := by
  cases exec_effect h with
  | refused e => exact e ▸ .refl _
  | decodes d raw _ e => exact e ▸ slotStep_sameCapture (fun k hk => ⟨_, _, _, finishDecoded_eq d raw hk⟩) j
  | invalid d _ e => exact e ▸ slotStep_sameCapture (fun _ _ => ⟨_, _, _, rfl⟩) j
  | edge _ he | reset he =>
    subst he
    cases hi
  | waits hc | issue _ hc | responds _ hc => cases hi.symm.trans hc

theorem passSkip_sameCapture {s t : State} (h : passSkip s = .next t) (j : Nat) :
    SameCapture (slotGet s j) (slotGet t j) := by
  rcases guarded_next h with ⟨_, rfl⟩ | ⟨_, rfl⟩
  · unfold skipStep
    split <;> exact .refl _
  · exact .refl _

/-- Settles O41: a class writes no capture field, and a slot step is a class or a skip. -/
theorem slotStepsKeepTheCaptureFields : Obligations.SlotStepsKeepTheCaptureFields := by
  refine ⟨fun i s t j hi h => exec_sameCapture hi h j, fun s t i j b hp hi h => ?_⟩
  rcases passStep_cases hp h with ⟨_, _, he⟩ | ⟨_, _, hskip⟩ | ⟨hge, _⟩
  · exact exec_sameCapture (formatOf_decodeTelegram _ _) he j
  · exact passSkip_sameCapture hskip j
  · exact absurd hi (Nat.not_lt.2 hge)

end Sys2Proof.Machine

/-! PROOFS. The consumer interface (43_consumer.md R136 to R143): what the select step answers, that a step adds at most one
response, and that a port loses at most its oldest word, and no word that is held. -/

namespace Sys2Proof.Machine

/-! ### The select step -/

theorem firstValidated_eq_some {s : State} {i : Nat} (hi : i < s.slots.length) (hv : (slotGet s i).state = .validated)
    (hfirst : ∀ j < i, (slotGet s j).state ≠ .validated) : firstValidated s = some i := by
  have hget (j : Nat) (hj : j < s.slots.length) : s.slots[j] = slotGet s j := by
    simp [slotGet, List.getD_eq_getElem?_getD, hj]
  rw [firstValidated, List.findIdx?_eq_some_iff_getElem]
  exact ⟨hi, by simpa [hget] using hv, fun j hj => by simpa [hget] using hfirst j hj⟩

theorem firstValidated_eq_none {s : State} (h : ∀ i < s.slots.length, (slotGet s i).state ≠ .validated) :
    firstValidated s = none := by
  cases hf : firstValidated s with
  | none => rfl
  | some i =>
    obtain ⟨hi, hv, -⟩ := firstValidated_some hf
    exact absurd hv (h i hi)

/-- Settles O34: past the last slot of POLL's pass the step is the select step, which takes the first Validated slot or finds
none. -/
theorem selectConsumesTheFirstValidatedSlot : Obligations.SelectConsumesTheFirstValidatedSlot := by
  intro s hw hlen hp
  have hstep : passStep s = .next (selectStep s) := passStep_of_end hw hp
  constructor
  · intro i hi hv hfirst
    rw [hstep, selectStep_of_some (firstValidated_eq_some (hlen ▸ hi) hv hfirst)]
    rfl
  · intro hnone
    rw [hstep, selectStep_of_none (firstValidated_eq_none (hlen ▸ hnone))]
    rfl

/-! ### The ports and the responses -/

/-- From `s` to `u` no port changes, and the responses stay or get one more at the end (43_consumer.md R139). -/
structure KeepsChannels (s u : State) : Prop where
  ports : portOf u = portOf s
  responses : u.responses = s.responses ∨ ∃ r, u.responses = s.responses ++ [r]

theorem KeepsChannels.refl (s : State) : KeepsChannels s s := ⟨rfl, .inl rfl⟩

theorem KeepsChannels.refuse (s : State) : KeepsChannels s (refuse s) := ⟨rfl, .inl rfl⟩

theorem KeepsChannels.guarded {s t u : State} (ht : KeepsChannels s t) (h : guarded s t = .next u) : KeepsChannels s u := by
  rcases guarded_next h with ⟨_, rfl⟩ | ⟨_, rfl⟩
  · exact ht
  · exact .refuse s

theorem KeepsChannels.edgeStep (ts : Nat) (s : State) : KeepsChannels s (edgeStep ts s) := by
  obtain ⟨-, -, hresp, -, hedge, hconsumer, hreset, -⟩ := edgeStep_frame ts s
  refine ⟨funext fun a => ?_, .inl hresp⟩
  cases a with
  | edge => exact hedge
  | consumer => exact hconsumer
  | reset => exact hreset

theorem KeepsChannels.finishDecoded (d : Derived) (raw : RawBits) (i : Nat) (s : State) :
    KeepsChannels s (finishDecoded d raw i s) := by
  simp only [Machine.finishDecoded]
  split <;> exact ⟨rfl, .inl rfl⟩

theorem KeepsChannels.slotStep {s : State} {effect : Nat → State → State} (he : ∀ i, KeepsChannels s (effect i s)) :
    KeepsChannels s (slotStep effect s) := by
  rcases slotStep_cases effect s with e | ⟨i, b, _, _, _, e⟩ | ⟨i, b, _, _, _, e⟩ <;> rw [e]
  · exact .refl s
  · exact ⟨(he i).ports, (he i).responses⟩
  · exact ⟨rfl, .inl rfl⟩

theorem KeepsChannels.skipStep (s : State) : KeepsChannels s (skipStep s) := by
  unfold Machine.skipStep
  split <;> exact ⟨rfl, .inl rfl⟩

theorem KeepsChannels.endPass (b : Bool) (s : State) : KeepsChannels s (endPass b s) := by
  obtain ⟨r, hr, -⟩ := endPass_responses b s
  refine ⟨?_, .inr ⟨r, hr⟩⟩
  cases b with
  | false => rfl
  | true =>
    rw [show Machine.endPass true s = selectStep s from rfl, selectStep]
    split <;> rfl

theorem exec_keepsChannels {i : Instr} {s u : State} (h : exec i s = .next u) : KeepsChannels s u := by
  cases exec_effect h with
  | refused e => exact e ▸ .refuse s
  | waits _ _ e => exact e ▸ .refl s
  | edge ts _ e => exact e ▸ .edgeStep ts s
  | issue p _ _ e => exact e ▸ ⟨rfl, .inl rfl⟩
  | responds r _ e => exact e ▸ ⟨rfl, .inr ⟨r, rfl⟩⟩
  | reset _ e => exact e ▸ ⟨rfl, .inl rfl⟩
  | decodes d raw _ e => exact e ▸ .slotStep fun i => .finishDecoded d raw i s
  | invalid d _ e => exact e ▸ .slotStep fun _ => ⟨rfl, .inl rfl⟩

theorem runWord_keepsChannels {w : Nat} {s u : State} (h : runWord w s = .next u) : KeepsChannels s u := by
  rcases runWord_cases h with ⟨i, _, he⟩ | ⟨_, _, rfl⟩
  · exact exec_keepsChannels he
  · exact .refuse s

theorem passStep_keepsChannels {s u : State} (h : passStep s = .next u) : KeepsChannels s u := by
  cases hp : s.cphase with
  | idle =>
    cases (passStep_of_idle hp).symm.trans h
    exact .refl s
  | pass i b =>
    rcases passStep_cases hp h with ⟨_, _, he⟩ | ⟨_, _, hskip⟩ | ⟨_, hend⟩
    · exact exec_keepsChannels he
    · exact (KeepsChannels.skipStep s).guarded hskip
    · exact (KeepsChannels.endPass b s).guarded hend

/-- Settles O50: a turn of a pass and a word that is run each keep the responses or add one. -/
theorem responsesOnlyGrow : Obligations.ResponsesOnlyGrow := by
  intro s t h
  rcases step_cases h with ⟨_, rfl⟩ | ⟨rest, _, _, hpass⟩ | ⟨a, rest, w, ws, _, _, _, _, hrun⟩
  · exact .inl rfl
  · exact (passStep_keepsChannels hpass).responses
  · simpa using (runWord_keepsChannels hrun).responses

/-! ### The words that wait -/

theorem portOf_setPort (s : State) (a b : Agent) (ws : List Nat) :
    portOf (setPort s a ws) b = if b = a then ws else portOf s b := by
  cases a <;> cases b <;> rfl

/-- A step leaves a port as it is, or takes its oldest word: one that is not held, and in a pass not one of the CONSUMER's
port. -/
theorem step_portOf {s t : State} (h : step s = .next t) (b : Agent) :
    portOf t b = portOf s b ∨
    ∃ w ws, portOf s b = w :: ws ∧ portOf t b = ws ∧ held s w = false ∧ ¬(b = .consumer ∧ s.cphase ≠ .idle) := by
  rcases step_cases h with ⟨_, rfl⟩ | ⟨rest, _, _, hpass⟩ | ⟨a, rest, w, ws, _, hc, hp, hh, hrun⟩
  · exact .inl rfl
  · exact .inl (congrFun (passStep_keepsChannels hpass).ports b)
  · have hport : portOf t b = if b = a then ws else portOf s b :=
      (congrFun (runWord_keepsChannels hrun).ports b).trans (portOf_setPort _ a b ws)
    by_cases hb : b = a
    · subst hb
      exact .inr ⟨w, ws, hp, hport.trans (if_pos rfl), hh, hc⟩
    · exact .inl (hport.trans (if_neg hb))

theorem step_portOf_consumer {s t : State} (hp : s.cphase ≠ .idle) (h : step s = .next t) :
    portOf t .consumer = portOf s .consumer := by
  rcases step_portOf h .consumer with hport | ⟨_, _, _, _, _, hc⟩
  · exact hport
  · exact absurd ⟨rfl, hp⟩ hc

theorem step_portOf_of_held {s t : State} {a : Agent} {w : Nat} {ws : List Nat} (hw : portOf s a = w :: ws)
    (hh : held s w = true) (h : step s = .next t) : portOf t a = portOf s a := by
  rcases step_portOf h a with hport | ⟨_, _, hw', _, hh', _⟩
  · exact hport
  · cases hw.symm.trans hw'
    exact absurd (hh.symm.trans hh') nofun

theorem held_of_pass {s : State} {w : Nat} (hp : s.cphase ≠ .idle) (hc : isConsumerOp (opOf w) = true) : held s w = true := by
  simp [held, hp, hc]

/-- Settles O31: each request waits in exec behind the same check of the cursor, and in a step its word is held or stands at the
CONSUMER's port, whose agent goes on with the pass. -/
theorem consumerRequestsWaitForThePass : Obligations.ConsumerRequestsWaitForThePass := by
  constructor
  · rintro s i hw hp (rfl | rfl | rfl | ⟨idx, rfl⟩)
    all_goals exact guarded_whenIdle_of_pass _ hw hp
  · intro s t hp h
    exact ⟨step_portOf_consumer hp h,
      fun _ _ hw hc => step_portOf_of_held (a := .edge) hw (held_of_pass hp hc) h,
      fun _ _ hw hc => step_portOf_of_held (a := .reset) hw (held_of_pass hp hc) h⟩

end Sys2Proof.Machine

/-! PROOFS. Preemption, progress and idleness (60_exceptions.md R154, R161, R164): EDGE leaves a pass where it is, DECODE_PASS and
POLL finish in N + 2 turns of the CONSUMER, and the block is idle when no agent has a step. -/

namespace Sys2Proof.Machine

/-! ### The idle block and the preempted pass -/

/-- Settles O48: a turn is looked for among all agents, and an idle block has none. -/
theorem idleBlockKeepsItsState : Obligations.IdleBlockKeepsItsState :=
  fun _ => ⟨nextTurn_eq_none_iff, fun h => by rw [step, nextTurn_eq_none_iff.2 h]⟩

/-- Settles O26: under a well-formed configuration EDGE is its own effect, which has this frame. -/
theorem edgePreservesAPassInProgress : Obligations.EdgePreservesAPassInProgress := by
  intro s t ts hw h
  obtain rfl : edgeStep ts s = t := Host.Outcome.next.inj ((guarded_of_wf _ hw).symm.trans h)
  exact edgeStep_frame ts s

/-! ### The turns of one request -/

/-- The telegram of the ReadyToDecode slot that a pass has reached writes that slot, moves the cursor on and sets the label,
however many slot records there are. -/
theorem exec_decodeTelegram_next {s : State} {i : Nat} {b : Bool} (hw : s.cfg.wf = true) (hp : s.cphase = .pass i b)
    (hi : i < s.cfg.capacity) (hr : (slotGet s i).state = .readyToDecode) :
    ∃ r l, exec (decodeTelegram (slotGet s i).kind (slotGet s i).raw) s =
      .next (setPhase (.pass (i + 1) b) (setLabel (slotSet s i r) l)) := by
  have hclass := decodeTelegram_mem_classesOf (slotGet s i).kind (slotGet s i).raw
  have hstep (effect : Nat → State → State) : slotStep effect s = setPhase (.pass (i + 1) b) (effect i s) := by
    simp [slotStep, hp, hi, hr]
  cases hd : decodeFails (slotGet s i).kind (slotGet s i).raw with
  | false =>
    rw [exec_class_of_not_fails hclass hd, decodes, guarded_of_wf _ hw, hstep, finishDecoded_eq _ _ (lt_length_of_ready hr)]
    exact ⟨_, _, rfl⟩
  | true =>
    rw [exec_class_of_fails hclass hd, guarded_of_wf _ hw, hstep]
    exact ⟨_, _, rfl⟩

/-- Each turn of a pass before its end moves the cursor on, and writes nothing else but the slots and the label. -/
theorem passStep_of_lt {s : State} {i : Nat} {b : Bool} (hw : s.cfg.wf = true) (hp : s.cphase = .pass i b)
    (hi : i < s.cfg.capacity) :
    ∃ rs l, passStep s = .next { s with slots := rs, cphase := .pass (i + 1) b, label := l } := by
  by_cases hr : (slotGet s i).state = .readyToDecode
  · obtain ⟨r, l, he⟩ := exec_decodeTelegram_next hw hp hi hr
    refine ⟨s.slots.set i r, l, ?_⟩
    rw [passStep, hp]
    exact (if_pos hi).trans ((if_pos hr).trans he)
  · exact ⟨s.slots, _, passStep_of_not_ready hw hp hi hr⟩

/-- A pass with `n` slots left ends in `n + 1` turns, with one response of its kind. -/
theorem consumerRun_to_end {n i : Nat} {s : State} {b : Bool} (hw : s.cfg.wf = true) (hp : s.cphase = .pass i b)
    (hn : i + n = s.cfg.capacity) :
    ∃ t r, consumerRun (n + 1) s = .next t ∧ t.cphase = .idle ∧ t.consumerIn = s.consumerIn ∧
      t.responses = s.responses ++ [r] ∧ endsPass b r := by
  induction n generalizing s i with
  | zero =>
    obtain rfl : i = s.cfg.capacity := hn
    obtain ⟨r, hresp, hkind⟩ := endPass_responses b s
    exact ⟨endPass b s, r, consumerRun_succ_of_pass hp (passStep_of_end hw hp) 0, endPass_cphase b s,
      congrFun (KeepsChannels.endPass b s).ports .consumer, hresp, hkind⟩
  | succ n ih =>
    obtain ⟨rs, l, hstep⟩ := passStep_of_lt hw hp (by omega)
    rw [consumerRun_succ_of_pass hp hstep]
    exact ih hw rfl ((Nat.succ_add_eq_add_succ i n).trans hn)

/-- The word of DECODE_PASS or POLL issues a pass of its own kind. -/
theorem runWord_issue {s : State} {w : Nat} (hw : s.cfg.wf = true) (hp : s.cphase = .idle) (hword : w = 0x2 ∨ w = 0x3) :
    runWord w s = .next { s with cphase := .pass 0 (decide (w = 0x3)), label := none } := by
  obtain ⟨hdecode, hpoll⟩ := issueStepsSetTheCursor s hw hp
  rcases hword with rfl | rfl <;> rw [runWord, decodeCmd_opcode _ (by decide)]
  · exact hdecode
  · exact hpoll

/-- The CONSUMER's turn at an Idle cursor takes the word of DECODE_PASS or POLL and issues its pass. -/
theorem consumerRun_succ_of_issue {s : State} {w : Nat} {ws : List Nat} (hw : s.cfg.wf = true) (hp : s.cphase = .idle)
    (hport : s.consumerIn = w :: ws) (hword : w = 0x2 ∨ w = 0x3) (n : Nat) :
    consumerRun (n + 1) s =
      consumerRun n { s with cphase := .pass 0 (decide (w = 0x3)), consumerIn := ws, label := none } := by
  have hoffered : offered s .consumer = some (w, ws) := offered_of_not_held hport (by simp [held, hp])
  rw [consumerRun, agentStep_of_word (by simp [hp]) hoffered,
    runWord_issue (s := setPort s .consumer ws) hw hp hword]
  rfl

/-- Settles O58: one turn issues the pass, N turns step through its slots, and one ends it with its response. -/
theorem passRequestsFinishInBoundedSteps : Obligations.PassRequestsFinishInBoundedSteps := by
  intro s w ws hw hp hport hword
  rw [consumerRun_succ_of_issue hw hp hport hword]
  obtain ⟨t, r, hrun, hidle, hin, hresp, hkind⟩ := consumerRun_to_end
    (s := { s with cphase := .pass 0 (decide (w = 0x3)), consumerIn := ws, label := none }) hw rfl (Nat.zero_add _)
  refine ⟨t, r, hrun, hidle, hin, hresp, ?_, ?_⟩ <;> rintro rfl <;> exact hkind

end Sys2Proof.Machine

/-! PROOFS. RESET (70_reset_and_hazards.md R165): its word carries the operand zero, its step gives every register and every slot
the reset value, and the reset state meets the invariant of the block. -/

namespace Sys2Proof.Machine

theorem exec_reset_of_wf {s : State} (h : s.cfg.wf = true) : exec .reset s = .next (resetRegisters s) :=
  guarded_of_wf _ h

/-- A word of opcode 6 is RESET, and its operand must be zero (30_encoding.md R63, R66). -/
theorem decodeCmd_reset_word {t w : Nat} (hw : w < 2 ^ (t + 4)) (ho : w % 16 = 6) :
    decodeCmd t w = zeroOperand 6 (w / 16) .reset := by
  rw [decodeCmd_eq_decodeOp hw, ho, decodeOp]

theorem slotGet_resetRegisters {s : State} {i : Nat} (hi : i < s.cfg.capacity) :
    slotGet (resetRegisters s) i = Slot.initial (if i = 0 then .capturing else .consumed) :=
  slotGet_of_initial (resetRegisters_slots s) hi

theorem length_slots_resetRegisters (s : State) : (resetRegisters s).slots.length = s.cfg.capacity :=
  ((storesWf_iff _).1 (storesWf_resetRegisters s)).1

/-- Settles O12: RESET answers the reset registers, whose slots are those of the queue after reset. -/
theorem resetSetsEveryRegister : Obligations.ResetSetsEveryRegister := fun s hwf =>
  ⟨fun _ => decodeCmd_reset_word, resetRegisters s, exec_reset_of_wf hwf, rfl, rfl, rfl, rfl, rfl, rfl, rfl,
    length_slots_resetRegisters s, fun _ => slotGet_resetRegisters, rfl, rfl, rfl, rfl, rfl, rfl, rfl, rfl⟩

/-- Settles O51: the queue, the registers, the cursor and the slots of the reset state meet the invariant, each by its own
lemma. -/
theorem resetMeetsTheInvariant : Obligations.ResetMeetsTheInvariant := fun _ => inv_resetOf

end Sys2Proof.Machine
